-- ==== Sys2Proof/Word.lean ====
section
/-! DEFINITION. The word types of the spec (00_scope.md R10 to R12) and the two shapes of generator
context (10_state.md R29 to R32). -/

namespace Sys2Proof

/-- One byte of BUF. -/
abbrev Byte := BitVec 8
/-- A port word, a command word, an MT32 word. -/
abbrev Word32 := BitVec 32
/-- An MT64 word, a PCG32 state. -/
abbrev Word64 := BitVec 64
/-- A register A, B or R; a PCG64 state. -/
abbrev Word128 := BitVec 128

/-- A Mersenne Twister context: `N` words of `W` bits and the cursor, an integer in `0..N`
(10_state.md R29, R30; the cursor bound of R34 is the type's). -/
structure MtCtx (W N : Nat) where
  mt : Vector (BitVec W) N
  w  : Fin (N + 1)
  deriving DecidableEq, Repr, Inhabited

/-- A PCG context: the state word and the increment, both `W` bits (10_state.md R31, R32). -/
structure PcgCtx (W : Nat) where
  state : BitVec W
  inc   : BitVec W
  deriving DecidableEq, Repr, Inhabited

/-- The MT32 context (10_state.md R29). -/
abbrev Mt32 := MtCtx 32 624
/-- The MT64 context (10_state.md R30). -/
abbrev Mt64 := MtCtx 64 312
/-- The PCG32 context (10_state.md R31). -/
abbrev Pcg32 := PcgCtx 64
/-- The PCG64 context (10_state.md R32). -/
abbrev Pcg64 := PcgCtx 128

end Sys2Proof
end

