-- ==== Sys2Proof/Syntax.lean ====
section
/-! DEFINITION. The commands of the block: one constructor per row of spec/opcode_table.json
(30_encoding.md R82). No command has an operand field (R84), so no constructor has an argument. -/

namespace Sys2Proof

/-- The 47 commands, in the opcode table's order (30_encoding.md R82). -/
inductive Instr where
  | nop
  | mt32Seed
  | mt32Seeda
  | mt32Seede
  | mt32Next32
  | mt32Next64
  | mt32Next128
  | mt32Bit
  | mt32Jump
  | mt32Save
  | mt32Load
  | mt64Seed
  | mt64Seeda
  | mt64Seede
  | mt64Next32
  | mt64Next64
  | mt64Next128
  | mt64Bit
  | mt64Save
  | mt64Load
  | pcg32Seed
  | pcg32Seede
  | pcg32Next32
  | pcg32Next64
  | pcg32Next128
  | pcg32Bit
  | pcg32Adv
  | pcg32Save
  | pcg32Load
  | pcg64Seed
  | pcg64Seede
  | pcg64Next32
  | pcg64Next64
  | pcg64Next128
  | pcg64Bit
  | pcg64Adv
  | pcg64Save
  | pcg64Load
  | w128Add
  | w128Adc
  | w128Mulw
  | w128Mul
  | w128Shl
  | w128Shr
  | w128Rotr
  | w128Rotr64
  | w128Rotr32
  deriving DecidableEq, Repr

end Sys2Proof
end

