-- ==== Sys2Proof/Decode.lean ====
section
/-! DEFINITION. Decoding and encoding of command words (30_encoding.md R80 to R88), and the disassembler. -/

namespace Sys2Proof

/-- Why a word is no command. Both raise `Fault(ILLEGAL)` (30_encoding.md R81, R85). -/
inductive Illegal where
  /-- Bits 31:8 are not all zero. -/
  | reservedBits
  /-- Bits 7:0 are no assigned OPC. -/
  | unassignedOpc
  deriving DecidableEq, Repr

/-- What a 32-bit word decodes to: one command, or illegal (30_encoding.md R81). -/
inductive Decoded where
  | command (i : Instr)
  | illegal (why : Illegal)
  deriving DecidableEq, Repr

/-- Field RSVD, bits 31:8 (30_encoding.md R80). -/
def fieldRsvd (w : Word32) : BitVec 24 := w.extractLsb' 8 24
/-- Field UNIT, bits 7:4 (30_encoding.md R80). -/
def fieldUnit (w : Word32) : BitVec 4 := w.extractLsb' 4 4
/-- Field OP, bits 3:0 (30_encoding.md R80). -/
def fieldOp (w : Word32) : BitVec 4 := w.extractLsb' 0 4

/-- The opcode map by UNIT and OP (30_encoding.md R82, R83); every other pair is reserved (R85). -/
def decodeUnitOp : Nat → Nat → Option Instr
  | 0, 0x0 => some .nop
  | 1, 0x0 => some .mt32Seed
  | 1, 0x1 => some .mt32Seeda
  | 1, 0x2 => some .mt32Seede
  | 1, 0x3 => some .mt32Next32
  | 1, 0x4 => some .mt32Next64
  | 1, 0x5 => some .mt32Next128
  | 1, 0x6 => some .mt32Bit
  | 1, 0x7 => some .mt32Jump
  | 1, 0x8 => some .mt32Save
  | 1, 0x9 => some .mt32Load
  | 2, 0x0 => some .mt64Seed
  | 2, 0x1 => some .mt64Seeda
  | 2, 0x2 => some .mt64Seede
  | 2, 0x3 => some .mt64Next32
  | 2, 0x4 => some .mt64Next64
  | 2, 0x5 => some .mt64Next128
  | 2, 0x6 => some .mt64Bit
  | 2, 0x8 => some .mt64Save
  | 2, 0x9 => some .mt64Load
  | 3, 0x0 => some .pcg32Seed
  | 3, 0x2 => some .pcg32Seede
  | 3, 0x3 => some .pcg32Next32
  | 3, 0x4 => some .pcg32Next64
  | 3, 0x5 => some .pcg32Next128
  | 3, 0x6 => some .pcg32Bit
  | 3, 0x7 => some .pcg32Adv
  | 3, 0x8 => some .pcg32Save
  | 3, 0x9 => some .pcg32Load
  | 4, 0x0 => some .pcg64Seed
  | 4, 0x2 => some .pcg64Seede
  | 4, 0x3 => some .pcg64Next32
  | 4, 0x4 => some .pcg64Next64
  | 4, 0x5 => some .pcg64Next128
  | 4, 0x6 => some .pcg64Bit
  | 4, 0x7 => some .pcg64Adv
  | 4, 0x8 => some .pcg64Save
  | 4, 0x9 => some .pcg64Load
  | 5, 0x0 => some .w128Add
  | 5, 0x1 => some .w128Adc
  | 5, 0x2 => some .w128Mulw
  | 5, 0x3 => some .w128Mul
  | 5, 0x4 => some .w128Shl
  | 5, 0x5 => some .w128Shr
  | 5, 0x6 => some .w128Rotr
  | 5, 0x7 => some .w128Rotr64
  | 5, 0x8 => some .w128Rotr32
  | _, _ => none

/-- Decoding of a command word, total on every word (30_encoding.md R81). -/
def decode (w : Word32) : Decoded :=
  if fieldRsvd w ≠ 0 then .illegal .reservedBits
  else match decodeUnitOp (fieldUnit w).toNat (fieldOp w).toNat with
    | some i => .command i
    | none => .illegal .unassignedOpc

/-- The OPC of a command (30_encoding.md R82). -/
def opc : Instr → Nat
  | .nop => 0x00
  | .mt32Seed => 0x10
  | .mt32Seeda => 0x11
  | .mt32Seede => 0x12
  | .mt32Next32 => 0x13
  | .mt32Next64 => 0x14
  | .mt32Next128 => 0x15
  | .mt32Bit => 0x16
  | .mt32Jump => 0x17
  | .mt32Save => 0x18
  | .mt32Load => 0x19
  | .mt64Seed => 0x20
  | .mt64Seeda => 0x21
  | .mt64Seede => 0x22
  | .mt64Next32 => 0x23
  | .mt64Next64 => 0x24
  | .mt64Next128 => 0x25
  | .mt64Bit => 0x26
  | .mt64Save => 0x28
  | .mt64Load => 0x29
  | .pcg32Seed => 0x30
  | .pcg32Seede => 0x32
  | .pcg32Next32 => 0x33
  | .pcg32Next64 => 0x34
  | .pcg32Next128 => 0x35
  | .pcg32Bit => 0x36
  | .pcg32Adv => 0x37
  | .pcg32Save => 0x38
  | .pcg32Load => 0x39
  | .pcg64Seed => 0x40
  | .pcg64Seede => 0x42
  | .pcg64Next32 => 0x43
  | .pcg64Next64 => 0x44
  | .pcg64Next128 => 0x45
  | .pcg64Bit => 0x46
  | .pcg64Adv => 0x47
  | .pcg64Save => 0x48
  | .pcg64Load => 0x49
  | .w128Add => 0x50
  | .w128Adc => 0x51
  | .w128Mulw => 0x52
  | .w128Mul => 0x53
  | .w128Shl => 0x54
  | .w128Shr => 0x55
  | .w128Rotr => 0x56
  | .w128Rotr64 => 0x57
  | .w128Rotr32 => 0x58

/-- The unit of a command: 0 control, 1 MT32, 2 MT64, 3 PCG32, 4 PCG64, 5 W128 (30_encoding.md R80). -/
def unitOf (i : Instr) : Nat := opc i / 16

/-- The operation of a command within its unit; the generator units share one pattern (30_encoding.md R83). -/
def opOf (i : Instr) : Nat := opc i % 16

/-- The word of a command: its OPC with bits 31:8 zero (30_encoding.md R80). -/
def encode (i : Instr) : Word32 := BitVec.ofNat 32 (opc i)

/-- The instruction read from a row of spec/opcode_table.json: every row is one 32-bit word, and the
bits above `nbits` are zero. -/
def decodeTableWord (nbits w : Nat) : Option Instr :=
  match decode (BitVec.ofNat 32 (w % 2 ^ nbits)) with
  | .command i => some i
  | .illegal _ => none

/-- The mnemonic of a command (30_encoding.md R82). -/
def mnemonic : Instr → String
  | .nop => "nop"
  | .mt32Seed => "mt32.seed"
  | .mt32Seeda => "mt32.seeda"
  | .mt32Seede => "mt32.seede"
  | .mt32Next32 => "mt32.next32"
  | .mt32Next64 => "mt32.next64"
  | .mt32Next128 => "mt32.next128"
  | .mt32Bit => "mt32.bit"
  | .mt32Jump => "mt32.jump"
  | .mt32Save => "mt32.save"
  | .mt32Load => "mt32.load"
  | .mt64Seed => "mt64.seed"
  | .mt64Seeda => "mt64.seeda"
  | .mt64Seede => "mt64.seede"
  | .mt64Next32 => "mt64.next32"
  | .mt64Next64 => "mt64.next64"
  | .mt64Next128 => "mt64.next128"
  | .mt64Bit => "mt64.bit"
  | .mt64Save => "mt64.save"
  | .mt64Load => "mt64.load"
  | .pcg32Seed => "pcg32.seed"
  | .pcg32Seede => "pcg32.seede"
  | .pcg32Next32 => "pcg32.next32"
  | .pcg32Next64 => "pcg32.next64"
  | .pcg32Next128 => "pcg32.next128"
  | .pcg32Bit => "pcg32.bit"
  | .pcg32Adv => "pcg32.adv"
  | .pcg32Save => "pcg32.save"
  | .pcg32Load => "pcg32.load"
  | .pcg64Seed => "pcg64.seed"
  | .pcg64Seede => "pcg64.seede"
  | .pcg64Next32 => "pcg64.next32"
  | .pcg64Next64 => "pcg64.next64"
  | .pcg64Next128 => "pcg64.next128"
  | .pcg64Bit => "pcg64.bit"
  | .pcg64Adv => "pcg64.adv"
  | .pcg64Save => "pcg64.save"
  | .pcg64Load => "pcg64.load"
  | .w128Add => "w128.add"
  | .w128Adc => "w128.adc"
  | .w128Mulw => "w128.mulw"
  | .w128Mul => "w128.mul"
  | .w128Shl => "w128.shl"
  | .w128Shr => "w128.shr"
  | .w128Rotr => "w128.rotr"
  | .w128Rotr64 => "w128.rotr64"
  | .w128Rotr32 => "w128.rotr32"

/-- One hexadecimal digit, upper case. -/
def hexDigit (n : Nat) : Char :=
  if n < 10 then Char.ofNat (48 + n) else Char.ofNat (55 + n)

/-- The `k` low hexadecimal digits of `n`, most significant first. -/
def hexDigits : Nat → Nat → List Char
  | 0, _ => []
  | k + 1, n => hexDigits k (n / 16) ++ [hexDigit (n % 16)]

/-- The disassembler: an assigned word as its mnemonic, any other as `.word 0xXXXXXXXX`
(30_encoding.md R88). -/
def disassemble (w : Word32) : String :=
  match decode w with
  | .command i => mnemonic i
  | .illegal _ => ".word 0x" ++ String.ofList (hexDigits 8 w.toNat)

end Sys2Proof
end

