-- ==== Sys2Proof/Machine/Bits.lean ====
section
/-! DEFINITION. Bit-field, rotation and byte-order helpers (00_scope.md R10 to R12; 20_memory.md R52, R59). -/

namespace Sys2Proof.Machine

/-- `rotr_W(v, r)` (00_scope.md R11). -/
def rotr {W : Nat} (v : BitVec W) (r : Nat) : BitVec W :=
  if r % W = 0 then v else (v >>> (r % W)) ||| (v <<< (W - r % W))

/-- `sint_W(v)`, the two's-complement reading of a value (00_scope.md R12). -/
def sint {W : Nat} (v : BitVec W) : Int :=
  if v.toNat < 2 ^ (W - 1) then v.toNat else (v.toNat : Int) - 2 ^ W

/-- `zext_n(v)` (00_scope.md R12). -/
def zext {W : Nat} (n : Nat) (v : BitVec W) : BitVec n := v.setWidth n

/-- `sext_n(v)`; no rule uses it, it is defined for completeness as in 00_scope.md R12. -/
def sext {W : Nat} (n : Nat) (v : BitVec W) : BitVec n := v.signExtend n

/-- Port word `k` of a 128-bit register: bits 32k+31 .. 32k (20_memory.md R52). -/
def portWord (v : Word128) (k : Nat) : Word32 := v.extractLsb' (32 * k) 32

/-- A 128-bit register with port word `k` replaced (20_memory.md R52). -/
def setPortWord (v : Word128) (k : Nat) (x : Word32) : Word128 :=
  (v &&& ~~~((0xFFFFFFFF : Word128) <<< (32 * k))) ||| (x.setWidth 128 <<< (32 * k))

/-- The `n` bytes of a value, least significant first: byte `i` is bits 8i+7 .. 8i (20_memory.md R59). -/
def leBytes : Nat → Nat → List Byte
  | 0, _ => []
  | n + 1, v => BitVec.ofNat 8 v :: leBytes n (v / 256)

/-- The little-endian value of a list of bytes: the sum of `byte i * 2^(8i)` (20_memory.md R59). -/
def leValue : List Byte → Nat
  | [] => 0
  | b :: bs => b.toNat + 256 * leValue bs

/-- `n` consecutive little-endian words of `size` bytes each, from the front of a list of bytes. -/
def leWords (W size : Nat) : Nat → List Byte → List (BitVec W)
  | 0, _ => []
  | n + 1, bs => BitVec.ofNat W (leValue (bs.take size)) :: leWords W size n (bs.drop size)

@[simp] theorem length_leWords (W size n : Nat) (bs : List Byte) :
    (leWords W size n bs).length = n := by
  induction n generalizing bs with
  | zero => rfl
  | succ n ih => simp [leWords, ih]

end Sys2Proof.Machine
end

