-- ==== Sys2Proof/Config.lean ====
section
/-! DEFINITION. What an implementation fixes, and the free values: the parameters of 00_scope.md R8 and the
open behaviours of 93_implementation_defined.md part 1. An `opaque` here has no body: no proof can see
what it is, and a claim about it holds whatever it is. The one further parameter, `JumpRep`, stands in
Machine/Jump.lean, after the native draw its property speaks of. -/

namespace Sys2Proof

/-- Which half of a 64-bit native draw NEXT32 returns (41_bitgen.md R136). -/
inductive NarrowSel where
  | high
  | low
  deriving DecidableEq, Repr, Inhabited

/-- How a PCG LOAD treats the increment of a blob (43_pcg.md R311). -/
inductive LoadIncMode where
  | forceOdd
  | raw
  deriving DecidableEq, Repr, Inhabited

namespace Config

/-- `NARROW_SEL`, left OPEN by the spec (41_bitgen.md R136, 92_eei_decisions.md D21). Log 6. -/
opaque narrowSel : NarrowSel

/-- `LOAD_INC_MODE`, which the spec sets to `FORCE_ODD` (43_pcg.md R311, 92_eei_decisions.md D28). Log 8. -/
def loadIncMode : LoadIncMode := .forceOdd

/-- `ENTROPY_MAY_FAIL`, which the spec sets to true (60_exceptions.md R406, 92_eei_decisions.md D30). Log 19. -/
def entropyMayFail : Bool := true

/-- Free value: whether the entropy input answers `EntropyFailure` (10_state.md R35). Log 5. -/
opaque entropyFails : Nat → Bool
/-- Free value: the entropy answer of an MT32 SEEDE, any context (42_mt.md R222). Log 5. -/
opaque entropyMt32 : Nat → Mt32
/-- Free value: the entropy answer of an MT64 SEEDE, any context (42_mt.md R242). Log 5. -/
opaque entropyMt64 : Nat → Mt64
/-- Free value: the entropy answer of a PCG32 SEEDE, before its increment is made odd (43_pcg.md R321). Log 5. -/
opaque entropyPcg32 : Nat → Pcg32
/-- Free value: the entropy answer of a PCG64 SEEDE, before its increment is made odd (43_pcg.md R341). Log 5. -/
opaque entropyPcg64 : Nat → Pcg64

/-- Free value: what one read of one BUF byte that nothing has written returns (10_state.md R40). Log 3. -/
opaque unwrittenByte : Nat → Byte
/-- Free value: what a read of R, FLAGS, LEN or BUF returns while a command is in flight
(70_reset_and_hazards.md R505). Log 4. -/
opaque busyRead : Nat → Word32

/-- `PORT_BASE`, the platform's choice; no rule reads it (20_memory.md R50). Log 17. -/
opaque portBase : Nat
/-- The jump polynomial table: 625 read-only words whose contents the source does not give and no rule
reads (10_state.md R37). Log 17. -/
opaque jumpTable : Vector Word32 625

end Config

end Sys2Proof
end

