-- ==== Sys2Proof/Machine/HostSyntax.lean ====
section
/-! DEFINITION. The host agent's statements (30_encoding.md R87), and which port access is admitted
(20_memory.md R55). The assembler's own statements and pseudo-instructions expand into these:
Machine/HostAgent.lean. Log 1. -/

namespace Sys2Proof.Machine

/-- The two agents that step the block (10_state.md R20). -/
inductive Agent where
  | host
  | engine
  deriving DecidableEq, Repr, Inhabited

/-- Host expressions over host variables, which are named by numbers; values are natural numbers
(00_scope.md R11). The spec leaves the language of `expr` open; DESIGN CHOICE, log 1. -/
inductive HostExpr where
  | lit (n : Nat)
  | var (h : Nat)
  /-- `base[index]`: the variable `index` places after `base`. -/
  | varAt (base : Nat) (index : HostExpr)
  | add (x y : HostExpr)
  | band (x y : HostExpr)
  /-- `x[hi:lo]` (00_scope.md R10). -/
  | slice (x : HostExpr) (hi lo : Nat)
  /-- The concatenation of `x` above the `width`-bit value `y` (00_scope.md R12). -/
  | cat (x : HostExpr) (width : Nat) (y : HostExpr)
  deriving DecidableEq, Repr, Inhabited

/-- Host conditions. DESIGN CHOICE, log 1. -/
inductive HostCond where
  | eq (x y : HostExpr)
  | lt (x y : HostExpr)
  deriving DecidableEq, Repr, Inhabited

/-- One statement of a host program. A label is the place of the statement it names (30_encoding.md R87).
R87's table leaves open whether a host variable may be indexed at run time, and program P1 of
95_test_vectors.md writes `out[n] <- v`. DESIGN CHOICE: it may, and the element `n` of `out` is the variable `n`
places after `out` (log 31). -/
inductive HostStmt where
  /-- A port write of `width` bits of `v` at offset `off`. -/
  | write (width off : Nat) (v : HostExpr)
  /-- A port read of `width` bits at offset `off` into host variable `h`. -/
  | read (width off : Nat) (h : Nat)
  /-- `h <- e`, no operation of the block. -/
  | assign (h : Nat) (e : HostExpr)
  /-- `base[index] <- e`, no operation of the block. DESIGN CHOICE, log 31. -/
  | assignAt (base : Nat) (index e : HostExpr)
  | ifGoto (cond : HostCond) (target : Nat)
  | goto (target : Nat)
  /-- The block's reset is asserted (70_reset_and_hazards.md R500). -/
  | reset
  deriving DecidableEq, Repr, Inhabited

/-- The accesses the port admits: exactly 32 bits, at a multiple of 4, inside the window (20_memory.md R55). -/
def accessAdmitted (width off : Nat) : Bool :=
  width == 32 && off % 4 == 0 && decide (off < 0x2000)

/-- A statement has a step unless it is an access that is not admitted (20_memory.md R55). -/
def HostStmt.hasStep : HostStmt → Bool
  | .write width off _ => accessAdmitted width off
  | .read width off _ => accessAdmitted width off
  | .assign _ _ => true
  | .assignAt _ _ _ => true
  | .ifGoto _ _ => true
  | .goto _ => true
  | .reset => true

end Sys2Proof.Machine
end

