-- ==== Sys2Proof/Machine/State.lean ====
section
/-! DEFINITION. The machine's state (10_state.md) as plain data, the reasons a step can stop, and the state
after reset (10_state.md R39). -/

namespace Sys2Proof.Machine

/-- The fault codes STATUS.CODE records (60_exceptions.md R400); `none` is code 0. Codes 6 to 15 are never
recorded. -/
inductive FaultCode where
  | none
  | illegal
  | precond
  | hazard
  | noseed
  | entropy
  deriving DecidableEq, Repr, Inhabited

/-- Why the machine stops. A fault OF THE BLOCK (60_exceptions.md R401) is no stop: it is a next state with
STATUS.FAULT set. -/
inductive Fault where
  /-- Raised by `step` when no command is in flight and the host's next statement is a port access of
  another width than 32 bits, at an offset that is no multiple of 4, or outside the window: it is not
  admitted and has no step, the host is stuck (20_memory.md R55). Safe: the spec gives it no effect. -/
  | accessNotAdmitted
  deriving DecidableEq, Repr

/-- Why an instruction has no meaning. -/
inductive Refusal where
  /-- Raised by an arm of `exec` whose instruction has no meaning yet. Safe: the machine stops. No arm of
  this model raises it. -/
  | notModelled (mnemonic : String)
  deriving DecidableEq, Repr

/-- BUF: the bytes that have been written since reset, by offset, strictly rising. An offset that is not
listed holds no value, and each read of it is a draw (10_state.md R28, R40). -/
abbrev Memory := List Host.Cell

/-- Every piece of state the spec gives the block, then the model's own fields: the count of free values
taken, and the host agent. -/
structure State where
  /-- Operand register A (10_state.md R21). -/
  a : Word128
  /-- Operand register B (10_state.md R22). -/
  b : Word128
  /-- Result register R (10_state.md R23). -/
  r : Word128
  /-- Carry flag C (10_state.md R24). -/
  c : Bool
  /-- Blob length LEN (10_state.md R25). -/
  len : BitVec 16
  /-- The issued command word PENDING (10_state.md R26). -/
  pending : Word32
  /-- STATUS.BUSY (10_state.md R27). -/
  busy : Bool
  /-- STATUS.FAULT (10_state.md R27). -/
  fault : Bool
  /-- STATUS.RJ (10_state.md R27). -/
  rj : Bool
  /-- STATUS.CODE (10_state.md R27, 60_exceptions.md R400). -/
  code : FaultCode
  /-- STATUS.VALID_MT32 (10_state.md R27, R33). -/
  validMt32 : Bool
  /-- STATUS.VALID_MT64. -/
  validMt64 : Bool
  /-- STATUS.VALID_PCG32. -/
  validPcg32 : Bool
  /-- STATUS.VALID_PCG64. -/
  validPcg64 : Bool
  /-- The blob buffer BUF (10_state.md R28). -/
  buf : Memory
  /-- The MT32 context (10_state.md R29). -/
  mt32 : Mt32
  /-- The MT64 context (10_state.md R30). -/
  mt64 : Mt64
  /-- The PCG32 context (10_state.md R31). -/
  pcg32 : Pcg32
  /-- The PCG64 context (10_state.md R32). -/
  pcg64 : Pcg64
  /-- The model's own: how many free values have been taken (log 10). -/
  draws : Nat
  /-- The model's own: the host's program (30_encoding.md R87; log 1). -/
  hostProg : List HostStmt
  /-- The model's own: the place of the host's next statement. -/
  hostAt : Nat
  /-- The model's own: the host variables, each with its value (log 25). -/
  hostVars : List (Nat × Nat)
  /-- The model's own: which agent moves, step by step, while both can (60_exceptions.md R409; log 2). -/
  turns : List Agent
  deriving DecidableEq, Repr

/-- The block's state after reset, beside what reset does not touch (10_state.md R39,
70_reset_and_hazards.md R500). The contents of the contexts are unspecified and unreadable; DESIGN CHOICE:
zero words, cursor 0, increment 1 (log 9). -/
def State.afterReset (draws : Nat) (prog : List HostStmt) (at_ : Nat) (vars : List (Nat × Nat))
    (turns : List Agent) : State where
  a := 0
  b := 0
  r := 0
  c := false
  len := 0
  pending := 0
  busy := false
  fault := false
  rj := false
  code := .none
  validMt32 := false
  validMt64 := false
  validPcg32 := false
  validPcg64 := false
  buf := []
  mt32 := ⟨Vector.replicate 624 0, 0⟩
  mt64 := ⟨Vector.replicate 312 0, 0⟩
  pcg32 := ⟨0, 1⟩
  pcg64 := ⟨0, 1⟩
  draws := draws
  hostProg := prog
  hostAt := at_
  hostVars := vars
  turns := turns

/-- The machine right after power-on, which is a reset (70_reset_and_hazards.md R500), with no host program
placed (log 10, log 13). -/
def State.reset : State := State.afterReset 0 [] 0 [] []

end Sys2Proof.Machine
end

