-- ==== Sys2Proof/Machine/Ops.lean ====
section
/-! DEFINITION. The shared operations: BUF (20_memory.md R59), completing a command and raising a fault
(41_bitgen.md R131, 60_exceptions.md R401), and the frames the generator commands share
(41_bitgen.md R133, R140 to R142). -/

namespace Sys2Proof.Machine

/-! ### BUF -/

/-- BUFSZ (10_state.md R28). -/
def bufSize : Nat := 2500

/-- The canonical form from offset `lo` on: offsets strictly rising, inside BUF. -/
def Memory.wfFrom : Nat → Memory → Bool
  | _, [] => true
  | lo, (a, _) :: m => decide (lo ≤ a) && decide (a < bufSize) && Memory.wfFrom (a + 1) m

/-- The canonical form of BUF: offsets strictly rising, inside BUF. An unlisted offset reads as no fixed
value, so no entry is equal to what one reads as (10_state.md R40). -/
def Memory.wf (m : Memory) : Bool := Memory.wfFrom 0 m

/-- The byte at an offset, or `none` where nothing has written since reset (10_state.md R40). -/
def Memory.byte? (m : Memory) (a : Nat) : Option Byte := List.lookup a m

/-- Bytes placed at consecutive offsets from `a`. -/
def cellsFrom : Nat → List Byte → Memory
  | _, [] => []
  | a, x :: xs => (a, x) :: cellsFrom (a + 1) xs

/-- The listed bytes below an offset. -/
def Memory.below (m : Memory) (a : Nat) : Memory := m.filter fun cell => decide (cell.1 < a)

/-- The listed bytes at or above an offset. -/
def Memory.from (m : Memory) (a : Nat) : Memory := m.filter fun cell => decide (a ≤ cell.1)

/-- `MemWrite` of a list of bytes at consecutive offsets from `a` (20_memory.md R59). -/
def Memory.write (m : Memory) (a : Nat) (bytes : List Byte) : Memory :=
  m.below a ++ cellsFrom a bytes ++ m.from (a + bytes.length)

/-- `MemRead` of `n` bytes from offset `a`, the first free value being number `d`: each byte that nothing has
written is a draw of its own (20_memory.md R59, 10_state.md R40). Answers the bytes and the number of the
next free value. -/
def Memory.read (m : Memory) : Nat → Nat → Nat → List Byte × Nat
  | 0, _, d => ([], d)
  | n + 1, a, d =>
    match m.byte? a with
    | some x => let p := m.read n (a + 1) d; (x :: p.1, p.2)
    | none => let p := m.read n (a + 1) (d + 1); (Config.unwrittenByte d :: p.1, p.2)

/-- `MemRead(addr, n)` of a command or of the host: the bytes, and the state with its count of free values
advanced (20_memory.md R59). -/
def memRead (addr n : Nat) (s : State) : List Byte × State :=
  let p := s.buf.read n addr s.draws
  (p.1, { s with draws := p.2 })

/-- `MemWrite` of bytes from `addr` on (20_memory.md R59). -/
def memWrite (addr : Nat) (bytes : List Byte) (s : State) : State :=
  { s with buf := s.buf.write addr bytes }

/-! ### Completion and faults -/

/-- A command completes: RJ is cleared and BUSY is cleared (41_bitgen.md R131). -/
def complete (s : State) : State := { s with rj := false, busy := false }

/-- A LOAD that rejects completes: RJ is set and BUSY is cleared (41_bitgen.md R131, R141). -/
def completeRejected (s : State) : State := { s with rj := true, busy := false }

/-- `raise Fault(code)` on the status: FAULT is set, and CODE keeps the first code (60_exceptions.md R401). -/
def recordFault (code : FaultCode) (s : State) : State :=
  { s with fault := true, code := if s.code = .none then code else s.code }

/-- A command raises a fault: the fault is recorded, RJ and BUSY are cleared, nothing else is written
(41_bitgen.md R131, 60_exceptions.md R401, R410). Taking an exception on this block is this operation; the
return from it is reset alone (60_exceptions.md R411). -/
def raiseFault (code : FaultCode) (s : State) : State :=
  { recordFault code s with rj := false, busy := false }

/-- A host write raises HAZARD: the fault is recorded, and the command in flight is not affected, so BUSY and
RJ stay (60_exceptions.md R404, R409). Log 29. -/
def raiseHazard (s : State) : State := recordFault .hazard s

/-- `x[R] <- zext_128(v)` (10_state.md R23). -/
def setR {n : Nat} (v : BitVec n) (s : State) : State := { s with r := zext 128 v }

/-! ### Resetting -/

/-- The block's reset: every piece of the block's state takes its reset value; the host agent, the turns and
the count of free values are not the block's and stay (70_reset_and_hazards.md R500; log 11). -/
def resetBlock (s : State) : State :=
  State.afterReset s.draws s.hostProg s.hostAt s.hostVars s.turns

/-! ### The frames of the generator commands -/

/-- Where a generator's context and VALID bit stand in the state (10_state.md R29 to R33). -/
structure GenUnit (γ : Type) where
  valid : State → Bool
  ctx : State → γ
  setCtx : γ → State → State
  setValid : State → State

/-- The MT32 unit (10_state.md R29). -/
def mt32Unit : GenUnit Mt32 where
  valid s := s.validMt32
  ctx s := s.mt32
  setCtx c s := { s with mt32 := c }
  setValid s := { s with validMt32 := true }

/-- The MT64 unit (10_state.md R30). -/
def mt64Unit : GenUnit Mt64 where
  valid s := s.validMt64
  ctx s := s.mt64
  setCtx c s := { s with mt64 := c }
  setValid s := { s with validMt64 := true }

/-- The PCG32 unit (10_state.md R31). -/
def pcg32Unit : GenUnit Pcg32 where
  valid s := s.validPcg32
  ctx s := s.pcg32
  setCtx c s := { s with pcg32 := c }
  setValid s := { s with validPcg32 := true }

/-- The PCG64 unit (10_state.md R32). -/
def pcg64Unit : GenUnit Pcg64 where
  valid s := s.validPcg64
  ctx s := s.pcg64
  setCtx c s := { s with pcg64 := c }
  setValid s := { s with validPcg64 := true }

/-- The context check before a command's own effect: NOSEED while the context holds no value
(41_bitgen.md R133). -/
def checkValid {γ : Type} (u : GenUnit γ) (s : State) (effect : State) : State :=
  if u.valid s then effect else raiseFault .noseed s

/-- `ctx <- c; VALID <- 1`: a context is constructed (10_state.md R33). -/
def construct {γ : Type} (u : GenUnit γ) (c : γ) (s : State) : State := u.setValid (u.setCtx c s)

/-- A draw command: `(v, ctx) <- draw(ctx); x[R] <- zext_128(v)` (41_bitgen.md R135 to R139). -/
def drawCommand {γ : Type} {n : Nat} (u : GenUnit γ) (draw : γ → BitVec n × γ) (s : State) : State :=
  checkValid u s <|
    let p := draw (u.ctx s)
    complete (setR p.1 (u.setCtx p.2 s))

/-- A command that only moves its context (PCG advance): `ctx <- f(ctx)` (43_pcg.md R326, R346). -/
def moveCommand {γ : Type} (u : GenUnit γ) (f : γ → γ) (s : State) : State :=
  checkValid u s <| complete (u.setCtx (f (u.ctx s)) s)

/-- A SEED command: the context is constructed (42_mt.md R220, 43_pcg.md R320). -/
def seedCommand {γ : Type} (u : GenUnit γ) (c : γ) (s : State) : State := complete (construct u c s)

/-- Whether entropy answer number `d` is `EntropyFailure` (10_state.md R35, 60_exceptions.md R406). -/
def entropyFailure (d : Nat) : Bool := Config.entropyMayFail && Config.entropyFails d

/-- The SEEDE frame: one entropy answer, a context or a failure (41_bitgen.md R142). -/
def seedeCommand {γ : Type} (u : GenUnit γ) (answer : Nat → γ) (s : State) : State :=
  let s1 := { s with draws := s.draws + 1 }
  if entropyFailure s.draws then raiseFault .entropy s1
  else complete (construct u (answer s.draws) s1)

/-- The SAVE frame for blobs of `len` bytes (41_bitgen.md R140). -/
def saveCommand {γ : Type} (u : GenUnit γ) (len : Nat) (enc : γ → List Byte) (s : State) : State :=
  checkValid u s <|
    complete { memWrite 0 (enc (u.ctx s)) s with len := BitVec.ofNat 16 len }

/-- The LOAD frame for blobs of `len` bytes: rejected on another LEN or an invalid blob (41_bitgen.md R141). -/
def loadCommand {γ : Type} (u : GenUnit γ) (len : Nat) (dec : List Byte → Option γ) (s : State) : State :=
  if s.len.toNat ≠ len then completeRejected s
  else
    let p := memRead 0 len s
    match dec p.1 with
    | none => completeRejected p.2
    | some c => complete (construct u c p.2)

end Sys2Proof.Machine
end

