-- ==== Sys2Proof/Machine/Operands.lean ====
section
/-! DEFINITION. The operand assembly of every command (30_encoding.md R84). -/

namespace Sys2Proof.Machine

/-- A[31:0]: the MT32 seed, the 32-bit rotate's value. -/
def opA32 (s : State) : Word32 := s.a.extractLsb' 0 32
/-- A[63:0]: the MT64 seed, the PCG32 initstate and advance count, the 64-bit multiply's and rotate's value. -/
def opA64 (s : State) : Word64 := s.a.extractLsb' 0 64
/-- B[63:0]: the PCG32 initseq, the 64-bit multiply's value. -/
def opB64 (s : State) : Word64 := s.b.extractLsb' 0 64

/-- The JUMP count `sint_64(A[63:0])` (42_mt.md R227). -/
def opJumpCount (s : State) : Int := sint (opA64 s)

/-- The SEEDA key length: all 128 bits of A, unsigned (42_mt.md R221, R241). -/
def opKeyLength (s : State) : Nat := s.a.toNat

/-- The SEEDA key: `key[i] = MemRead(size * i, size)` for `i < kl`, and the state with its count of free values
advanced (42_mt.md R221, R241). -/
def opKey (W size kl : Nat) (s : State) : List (BitVec W) × State :=
  let p := memRead 0 (size * kl) s
  (leWords W size kl p.1, p.2)

/-- The shift amount: all 128 bits of B, unsigned (40_w128.md R105, R106). -/
def opShiftAmount (s : State) : Nat := s.b.toNat
/-- B[6:0] (40_w128.md R107). -/
def opRotate128 (s : State) : Nat := (s.b.extractLsb' 0 7).toNat
/-- B[5:0] (40_w128.md R108). -/
def opRotate64 (s : State) : Nat := (s.b.extractLsb' 0 6).toNat
/-- B[4:0] (40_w128.md R109). -/
def opRotate32 (s : State) : Nat := (s.b.extractLsb' 0 5).toNat

/-- The SEEDA frame: PRECOND unless `1 ≤ kl ≤ maxLen`; then the key is read and the context constructed from it
(42_mt.md R221, R241). -/
def seedaCommand {γ : Type} (u : GenUnit γ) (W size maxLen : Nat) (init : List (BitVec W) → γ) (s : State) :
    State :=
  let kl := opKeyLength s
  if kl = 0 ∨ kl > maxLen then raiseFault .precond s
  else
    let p := opKey W size kl s
    complete (construct u (init p.1) p.2)

end Sys2Proof.Machine
end

