-- ==== Sys2Proof/Machine/Control.lean ====
section
/-! DEFINITION. The control command (41_bitgen.md R134). -/

namespace Sys2Proof.Machine

/-- `nop`: nothing but completion (41_bitgen.md R134). -/
def execNop (s : State) : Host.Outcome State Fault Refusal :=
  .next (complete s)

end Sys2Proof.Machine
end

