-- ==== Sys2Proof/Machine/Contract.lean ====
section
/-! DEFINITION. The generator contract common to the four engines (41_bitgen.md R135 to R139): how every draw
is built from native draws `gen : context → word × context`, and the output stream. -/

namespace Sys2Proof.Machine

/-- The context after `n` native draws. -/
def ctxAfter {γ ω : Type} (gen : γ → ω × γ) : Nat → γ → γ
  | 0, c => c
  | n + 1, c => ctxAfter gen n (gen c).2

/-- The output stream `O(ctx)`: word `n` is the native draw after `n` draws (41_bitgen.md R135). -/
def outputStream {γ ω : Type} (gen : γ → ω × γ) (c : γ) : Nat → ω :=
  fun n => (gen (ctxAfter gen n c)).1

/-- `drop(K, s)`: a stream without its first `K` words (42_mt.md R213). -/
def dropStream {ω : Type} (k : Nat) (s : Nat → ω) : Nat → ω := fun n => s (k + n)

/-- Output equivalence of two contexts (42_mt.md R213, 00_scope.md R16). -/
def OutputEquivalent {γ ω : Type} (gen : γ → ω × γ) (c c' : γ) : Prop :=
  outputStream gen c = outputStream gen c'

/-- NEXT32 of a 32-bit-native generator: one native draw (41_bitgen.md R136). -/
def next32Native {γ : Type} (gen : γ → Word32 × γ) (c : γ) : Word32 × γ := gen c

/-- The half of a 64-bit native draw that `NARROW_SEL` names (41_bitgen.md R136). -/
def narrow (v : Word64) : Word32 :=
  match Config.narrowSel with
  | .high => v.extractLsb' 32 32
  | .low => v.extractLsb' 0 32

/-- NEXT32 of a 64-bit-native generator: one native draw, the other half discarded (41_bitgen.md R136). -/
def next32Narrow {γ : Type} (gen : γ → Word64 × γ) (c : γ) : Word32 × γ :=
  let p := gen c
  (narrow p.1, p.2)

/-- NEXT64 of a 32-bit-native generator: two native draws, the first in bits 63:32 (41_bitgen.md R137). -/
def next64Pair {γ : Type} (gen : γ → Word32 × γ) (c : γ) : Word64 × γ :=
  let p := gen c
  let q := gen p.2
  (p.1 ++ q.1, q.2)

/-- NEXT64 of a 64-bit-native generator: one native draw (41_bitgen.md R137). -/
def next64Native {γ : Type} (gen : γ → Word64 × γ) (c : γ) : Word64 × γ := gen c

/-- NEXT128 from NEXT64: two of them, the first in bits 127:64 (41_bitgen.md R138). -/
def next128 {γ : Type} (next64 : γ → Word64 × γ) (c : γ) : Word128 × γ :=
  let p := next64 c
  let q := next64 p.2
  (p.1 ++ q.1, q.2)

/-- BIT: bit 0 of one native draw (41_bitgen.md R139). -/
def drawBit {γ : Type} {W : Nat} (gen : γ → BitVec W × γ) (c : γ) : BitVec 1 × γ :=
  let p := gen c
  (p.1.extractLsb' 0 1, p.2)

end Sys2Proof.Machine
end

