-- ==== Sys2Proof/Machine/MtEngine.lean ====
section
/-! DEFINITION. The Mersenne Twister functions (42_mt.md R200 to R212), written once for both word widths and
used with the constants of MT32 (R200) and of MT64 (R201). The numeric constants are the spec's, which
marks them as general knowledge (log 15). -/

namespace Sys2Proof.Machine

/-- The numeric constants of one Mersenne Twister of `W`-bit words (42_mt.md R200, R201). -/
structure MtConst (W : Nat) where
  /-- The twist offset M. -/
  m : Nat
  upper : BitVec W
  lower : BitVec W
  matrixA : BitVec W
  /-- The seeding multiplier f. -/
  f : BitVec W
  /-- The seeding shift, 30 or 62 (R207, R208). -/
  shift : Nat
  /-- The first-pass multiplier of array seeding. -/
  pass1 : BitVec W
  /-- The second-pass multiplier of array seeding. -/
  pass2 : BitVec W
  /-- The word array seeding leaves in `mt[0]`. -/
  topWord : BitVec W

/-- The MT32 constants (42_mt.md R200). -/
def mt32Const : MtConst 32 where
  m := 397
  upper := 0x80000000
  lower := 0x7FFFFFFF
  matrixA := 0x9908B0DF
  f := 1812433253
  shift := 30
  pass1 := 1664525
  pass2 := 1566083941
  topWord := 0x80000000

/-- The MT64 constants (42_mt.md R201). -/
def mt64Const : MtConst 64 where
  m := 156
  upper := 0xFFFFFFFF80000000
  lower := 0x000000007FFFFFFF
  matrixA := 0xB5026F5AA96619E9
  f := 6364136223846793005
  shift := 62
  pass1 := 3935559000370003845
  pass2 := 2862933555777941757
  topWord := 0x8000000000000000

/-- `mt[i]`; every index the rules use is inside the array. -/
def mtWord {W N : Nat} (mt : Vector (BitVec W) N) (i : Nat) : BitVec W := mt[i]?.getD 0

/-- The word the twist combines from the upper bits of `x` and the lower bits of `y`, shifted and folded with
the matrix constant (42_mt.md R202). -/
def twistMix {W : Nat} (k : MtConst W) (x y : BitVec W) : BitVec W :=
  let z := (x &&& k.upper) ||| (y &&& k.lower)
  let mag := if z.getLsbD 0 then k.matrixA else 0
  (z >>> 1) ^^^ mag

/-- Iteration `i` of the twist, in place (42_mt.md R202). -/
def twistStep {W N : Nat} (k : MtConst W) (mt : Vector (BitVec W) N) (i : Nat) : Vector (BitVec W) N :=
  mt.setIfInBounds i
    (mtWord mt ((i + k.m) % N) ^^^ twistMix k (mtWord mt i) (mtWord mt ((i + 1) % N)))

/-- The twist of the array: iterations `0 .. N-1` in order (42_mt.md R202). -/
def twist {W N : Nat} (k : MtConst W) (mt : Vector (BitVec W) N) : Vector (BitVec W) N :=
  (List.range N).foldl (twistStep k) mt

/-- MT32 tempering (42_mt.md R203). -/
def temper32 (y : Word32) : Word32 :=
  let y := y ^^^ (y >>> 11)
  let y := y ^^^ ((y <<< 7) &&& 0x9D2C5680)
  let y := y ^^^ ((y <<< 15) &&& 0xEFC60000)
  y ^^^ (y >>> 18)

/-- MT64 tempering (42_mt.md R204). -/
def temper64 (y : Word64) : Word64 :=
  let y := y ^^^ ((y >>> 29) &&& 0x5555555555555555)
  let y := y ^^^ ((y <<< 17) &&& 0x71D67FFFEDA60000)
  let y := y ^^^ ((y <<< 37) &&& 0xFFF7EEE000000000)
  y ^^^ (y >>> 43)

/-- The context ready for extraction: twisted, with cursor 0, if the cursor is `N` (42_mt.md R205). -/
def mtReady {W N : Nat} (k : MtConst W) (c : MtCtx W N) : MtCtx W N :=
  if c.w.val = N then ⟨twist k c.mt, 0⟩ else c

/-- The native draw of a Mersenne Twister (42_mt.md R205). -/
def mtGen {W N : Nat} (k : MtConst W) (temper : BitVec W → BitVec W) (c : MtCtx W N) :
    BitVec W × MtCtx W N :=
  let c1 := mtReady k c
  (temper (mtWord c1.mt c1.w.val), ⟨c1.mt, c1.w + 1⟩)

/-- `gen_MT32` (42_mt.md R205). -/
def genMt32 (c : Mt32) : Word32 × Mt32 := mtGen mt32Const temper32 c
/-- `gen_MT64` (42_mt.md R206). -/
def genMt64 (c : Mt64) : Word64 × Mt64 := mtGen mt64Const temper64 c

/-- The seeding recurrence's word `i` from word `i-1` (42_mt.md R207, R208). -/
def initWord {W : Nat} (k : MtConst W) (prev : BitVec W) (i : Nat) : BitVec W :=
  k.f * (prev ^^^ (prev >>> k.shift)) + BitVec.ofNat W i

/-- Iteration `i` of seeding from a word (42_mt.md R207, R208). -/
def initStep {W N : Nat} (k : MtConst W) (mt : Vector (BitVec W) N) (i : Nat) : Vector (BitVec W) N :=
  mt.setIfInBounds i (initWord k (mtWord mt (i - 1)) i)

/-- Seeding from one word: `mt[0] <- s`, then iterations `1 .. N-1`, cursor `N` (42_mt.md R207, R208). -/
def mtInit {W N : Nat} (k : MtConst W) (s : BitVec W) : MtCtx W N :=
  ⟨(List.range' 1 (N - 1)).foldl (initStep k) ((Vector.replicate N 0).setIfInBounds 0 s), Fin.last N⟩

/-- `init32` (42_mt.md R207). -/
def init32 (s : Word32) : Mt32 := mtInit mt32Const s
/-- `init64` (42_mt.md R208). -/
def init64 (s : Word64) : Mt64 := mtInit mt64Const s

/-- The loop variables of array seeding: the array, the array index `i` and the key index `j`
(42_mt.md R209). -/
structure SeedLoop (W N : Nat) where
  mt : Vector (BitVec W) N
  i : Nat
  j : Nat
  deriving DecidableEq, Repr

/-- `if i ≥ N then mt[0] <- mt[N-1]; i <- 1` (42_mt.md R209). -/
def SeedLoop.wrap {W N : Nat} (l : SeedLoop W N) : SeedLoop W N :=
  if l.i ≥ N then { l with mt := l.mt.setIfInBounds 0 (mtWord l.mt (N - 1)), i := 1 } else l

/-- The word both passes mix: `mt[i-1] ^ (mt[i-1] >> shift)` (42_mt.md R209). -/
def SeedLoop.prevMix {W N : Nat} (k : MtConst W) (l : SeedLoop W N) : BitVec W :=
  mtWord l.mt (l.i - 1) ^^^ (mtWord l.mt (l.i - 1) >>> k.shift)

/-- One iteration of the first pass over the key words `key` (42_mt.md R209). -/
def seedPass1 {W N : Nat} (k : MtConst W) (key : List (BitVec W)) (l : SeedLoop W N) : SeedLoop W N :=
  let x := (mtWord l.mt l.i ^^^ (l.prevMix k * k.pass1)) + key.getD l.j 0 + BitVec.ofNat W l.j
  let l' : SeedLoop W N := { mt := l.mt.setIfInBounds l.i x, i := l.i + 1, j := l.j + 1 }
  let l'' := l'.wrap
  if l''.j ≥ key.length then { l'' with j := 0 } else l''

/-- One iteration of the second pass (42_mt.md R209). -/
def seedPass2 {W N : Nat} (k : MtConst W) (l : SeedLoop W N) : SeedLoop W N :=
  let x := (mtWord l.mt l.i ^^^ (l.prevMix k * k.pass2)) - BitVec.ofNat W l.i
  SeedLoop.wrap { l with mt := l.mt.setIfInBounds l.i x, i := l.i + 1 }

/-- `n` iterations of a loop body. -/
def repeatLoop {α : Type} (body : α → α) : Nat → α → α
  | 0, x => x
  | n + 1, x => repeatLoop body n (body x)

/-- `init_by_array` for `key.length ≥ 1` key words (42_mt.md R209, R210): seed with 19650218, the first pass
`max(N, kl)` times, the second `N - 1` times, then the top word; the cursor stays `N`. -/
def mtInitByArray {W N : Nat} (k : MtConst W) (key : List (BitVec W)) : MtCtx W N :=
  let c : MtCtx W N := mtInit k (BitVec.ofNat W 19650218)
  let l1 := repeatLoop (seedPass1 k key) (max N key.length) ⟨c.mt, 1, 0⟩
  let l2 := repeatLoop (seedPass2 k) (N - 1) l1
  ⟨l2.mt.setIfInBounds 0 k.topWord, c.w⟩

/-- `init_by_array32` (42_mt.md R209). -/
def initByArray32 (key : List Word32) : Mt32 := mtInitByArray mt32Const key
/-- `init_by_array64` (42_mt.md R210). -/
def initByArray64 (key : List Word64) : Mt64 := mtInitByArray mt64Const key

/-- A Mersenne Twister blob: the cursor in 2 bytes, then the words, all little-endian, `size` bytes a word
(42_mt.md R211, R212). -/
def mtBlob {W N : Nat} (size : Nat) (c : MtCtx W N) : List Byte :=
  leBytes 2 c.w.val ++ c.mt.toList.flatMap fun x => leBytes size x.toNat

/-- The context a blob holds, or `none` (the spec's `invalid`) if its cursor is above `N`
(42_mt.md R211, R212). -/
def mtOfBlob {W N : Nat} (size : Nat) (bs : List Byte) : Option (MtCtx W N) :=
  if h : leValue (bs.take 2) ≤ N then
    some ⟨⟨(leWords W size N (bs.drop 2)).toArray, by simp⟩, ⟨leValue (bs.take 2), Nat.lt_succ_of_le h⟩⟩
  else none

/-- `enc_MT32` (42_mt.md R211). -/
def encMt32 (c : Mt32) : List Byte := mtBlob 4 c
/-- `dec_MT32` (42_mt.md R211). -/
def decMt32 (bs : List Byte) : Option Mt32 := mtOfBlob 4 bs
/-- `enc_MT64` (42_mt.md R212). -/
def encMt64 (c : Mt64) : List Byte := mtBlob 8 c
/-- `dec_MT64` (42_mt.md R212). -/
def decMt64 (bs : List Byte) : Option Mt64 := mtOfBlob 8 bs

end Sys2Proof.Machine
end

