-- ==== Sys2Proof/Machine/Jump.lean ====
section
/-! DEFINITION. MT32 jump-ahead (42_mt.md R213 to R216): the property `JumpSpec`, the configuration function
`JumpRep` of which a model assumes only that property, and the pieces of the construction of R216. -/

namespace Sys2Proof

namespace Machine

/-- `JumpSpec`: the result outputs what the argument outputs after `k * 2^128` words, for every context and
every `k ≥ 1` (42_mt.md R214, R215). That the result's cursor is at most 624 is its type's. -/
def JumpSpec (f : Mt32 → Nat → Mt32) : Prop :=
  ∀ (c : Mt32) (k : Nat), 1 ≤ k →
    outputStream genMt32 (f c k) = dropStream (k * 2 ^ 128) (outputStream genMt32 c)

/-- The functions that meet `JumpSpec` (42_mt.md R215). -/
abbrev JumpFn := { f : Mt32 → Nat → Mt32 // JumpSpec f }

theorem ctxAfter_add {γ ω : Type} (gen : γ → ω × γ) (m n : Nat) (c : γ) :
    ctxAfter gen (m + n) c = ctxAfter gen n (ctxAfter gen m c) := by
  induction m generalizing c with
  | zero => rw [Nat.zero_add]; rfl
  | succ m ih => rw [Nat.succ_add]; exact ih (gen c).2

theorem outputStream_ctxAfter {γ ω : Type} (gen : γ → ω × γ) (k : Nat) (c : γ) :
    outputStream gen (ctxAfter gen k c) = dropStream k (outputStream gen c) := by
  funext n
  rw [dropStream, outputStream, outputStream, ctxAfter_add]

/-- Direct stepping meets `JumpSpec`, so a function with the property exists (42_mt.md R215). -/
def directJump : JumpFn :=
  ⟨fun c k => ctxAfter genMt32 (k * 2 ^ 128) c, fun c k _ => outputStream_ctxAfter genMt32 (k * 2 ^ 128) c⟩

end Machine

/-- `JumpRep`, the configuration function of 42_mt.md R215: an unknown function of which nothing is known but
`JumpSpec`, its type's property. It has no body; the bracketed argument only shows that its type has a
member. Log 7. -/
opaque Config.jumpRep [Inhabited Machine.JumpFn] : Machine.JumpFn

namespace Machine

/-- `JumpRep(c, k)` (42_mt.md R215). -/
def jumpRep (c : Mt32) (k : Nat) : Mt32 := (@Config.jumpRep ⟨directJump⟩).1 c k

/-- All that is known of `JumpRep` (42_mt.md R215). -/
theorem jumpRep_spec (c : Mt32) (k : Nat) (hk : 1 ≤ k) :
    outputStream genMt32 (jumpRep c k) = dropStream (k * 2 ^ 128) (outputStream genMt32 c) :=
  (@Config.jumpRep ⟨directJump⟩).2 c k hk

/-- The context JUMP leaves for a count `k`: unchanged for 0 (42_mt.md R227). -/
def jumpMt32 (c : Mt32) (k : Nat) : Mt32 := if k = 0 then c else jumpRep c k

/-- One recurrence step on a window of words: `T(v0 … v623) = (v1 … v623, v397 ^ mix(v0, v1))`
(42_mt.md R216). -/
def windowStep (v : Vector Word32 624) : Vector Word32 624 :=
  Vector.ofFn fun i =>
    if i.val < 623 then mtWord v (i.val + 1)
    else mtWord v 397 ^^^ twistMix mt32Const (mtWord v 0) (mtWord v 1)

/-- `n` recurrence steps (42_mt.md R216). -/
def windowAfter (n : Nat) (v : Vector Word32 624) : Vector Word32 624 := repeatLoop windowStep n v

/-- Word-by-word exclusive or of two windows (42_mt.md R216). -/
def windowXor (v u : Vector Word32 624) : Vector Word32 624 :=
  Vector.ofFn fun i => mtWord v i.val ^^^ mtWord u i.val

/-- `P(T)` applied to a window by Horner's rule, the coefficients of `P` from the highest down
(42_mt.md R216). -/
def windowHorner (p : List Bool) (mt : Vector Word32 624) : Vector Word32 624 :=
  p.foldl (fun acc coeff =>
    let acc := windowStep acc
    if coeff then windowXor acc mt else acc) (Vector.replicate 624 0)

end Machine

end Sys2Proof
end

