-- ==== Sys2Proof/Machine/Mt32Commands.lean ====
section
/-! DEFINITION. The MT32 commands (42_mt.md R220 to R229). -/

namespace Sys2Proof.Machine

/-- `mt32.seed`: seed from A[31:0] (42_mt.md R220). -/
def execMt32Seed (s : State) : Host.Outcome State Fault Refusal :=
  .next (seedCommand mt32Unit (init32 (opA32 s)) s)

/-- `mt32.seeda`: seed from A key words of 4 bytes in BUF, 1 to 625 of them (42_mt.md R221). -/
def execMt32Seeda (s : State) : Host.Outcome State Fault Refusal :=
  .next (seedaCommand mt32Unit 32 4 625 initByArray32 s)

/-- `mt32.seede`: seed from the entropy input (42_mt.md R222; 41_bitgen.md R142). -/
def execMt32Seede (s : State) : Host.Outcome State Fault Refusal :=
  .next (seedeCommand mt32Unit Config.entropyMt32 s)

/-- `mt32.next32` (42_mt.md R223; 41_bitgen.md R136). -/
def execMt32Next32 (s : State) : Host.Outcome State Fault Refusal :=
  .next (drawCommand mt32Unit (next32Native genMt32) s)

/-- `mt32.next64` (42_mt.md R224; 41_bitgen.md R137). -/
def execMt32Next64 (s : State) : Host.Outcome State Fault Refusal :=
  .next (drawCommand mt32Unit (next64Pair genMt32) s)

/-- `mt32.next128` (42_mt.md R225; 41_bitgen.md R138). -/
def execMt32Next128 (s : State) : Host.Outcome State Fault Refusal :=
  .next (drawCommand mt32Unit (next128 (next64Pair genMt32)) s)

/-- `mt32.bit` (42_mt.md R226; 41_bitgen.md R139). -/
def execMt32Bit (s : State) : Host.Outcome State Fault Refusal :=
  .next (drawCommand mt32Unit (drawBit genMt32) s)

/-- `mt32.jump`: NOSEED first, then PRECOND on a negative count, then the jump (42_mt.md R227). -/
def execMt32Jump (s : State) : Host.Outcome State Fault Refusal :=
  .next (checkValid mt32Unit s <|
    if opJumpCount s < 0 then raiseFault .precond s
    else complete { s with mt32 := jumpMt32 s.mt32 (opJumpCount s).toNat })

/-- `mt32.save`: the SAVE frame, 2498 bytes (42_mt.md R228; 41_bitgen.md R140). -/
def execMt32Save (s : State) : Host.Outcome State Fault Refusal :=
  .next (saveCommand mt32Unit 2498 encMt32 s)

/-- `mt32.load`: the LOAD frame, 2498 bytes (42_mt.md R229; 41_bitgen.md R141). -/
def execMt32Load (s : State) : Host.Outcome State Fault Refusal :=
  .next (loadCommand mt32Unit 2498 decMt32 s)

end Sys2Proof.Machine
end

