-- ==== Sys2Proof/Machine/Mt64Commands.lean ====
section
/-! DEFINITION. The MT64 commands (42_mt.md R240 to R248). -/

namespace Sys2Proof.Machine

/-- `mt64.seed`: seed from A[63:0] (42_mt.md R240). -/
def execMt64Seed (s : State) : Host.Outcome State Fault Refusal :=
  .next (seedCommand mt64Unit (init64 (opA64 s)) s)

/-- `mt64.seeda`: seed from A key words of 8 bytes in BUF, 1 to 312 of them (42_mt.md R241). -/
def execMt64Seeda (s : State) : Host.Outcome State Fault Refusal :=
  .next (seedaCommand mt64Unit 64 8 312 initByArray64 s)

/-- `mt64.seede`: seed from the entropy input (42_mt.md R242; 41_bitgen.md R142). -/
def execMt64Seede (s : State) : Host.Outcome State Fault Refusal :=
  .next (seedeCommand mt64Unit Config.entropyMt64 s)

/-- `mt64.next32` (42_mt.md R243; 41_bitgen.md R136). -/
def execMt64Next32 (s : State) : Host.Outcome State Fault Refusal :=
  .next (drawCommand mt64Unit (next32Narrow genMt64) s)

/-- `mt64.next64` (42_mt.md R244; 41_bitgen.md R137). -/
def execMt64Next64 (s : State) : Host.Outcome State Fault Refusal :=
  .next (drawCommand mt64Unit (next64Native genMt64) s)

/-- `mt64.next128` (42_mt.md R245; 41_bitgen.md R138). -/
def execMt64Next128 (s : State) : Host.Outcome State Fault Refusal :=
  .next (drawCommand mt64Unit (next128 (next64Native genMt64)) s)

/-- `mt64.bit` (42_mt.md R246; 41_bitgen.md R139). -/
def execMt64Bit (s : State) : Host.Outcome State Fault Refusal :=
  .next (drawCommand mt64Unit (drawBit genMt64) s)

/-- `mt64.save`: the SAVE frame, 2498 bytes (42_mt.md R247; 41_bitgen.md R140). -/
def execMt64Save (s : State) : Host.Outcome State Fault Refusal :=
  .next (saveCommand mt64Unit 2498 encMt64 s)

/-- `mt64.load`: the LOAD frame, 2498 bytes (42_mt.md R248; 41_bitgen.md R141). -/
def execMt64Load (s : State) : Host.Outcome State Fault Refusal :=
  .next (loadCommand mt64Unit 2498 decMt64 s)

end Sys2Proof.Machine
end

