-- ==== Sys2Proof/Machine/PcgEngine.lean ====
section
/-! DEFINITION. The Permuted Congruential Generator functions (43_pcg.md R300 to R311), the linear congruential
part written once for both widths. The multipliers and the XSH-RR shifts are the spec's, which marks them
as general knowledge (log 15). -/

namespace Sys2Proof.Machine

/-- `MUL64` (43_pcg.md R300). -/
def mul64 : Word64 := 6364136223846793005
/-- `MUL128` (43_pcg.md R300). -/
def mul128 : Word128 := 0x2360ED051FC65DA44385DF649FCCF645

/-- The LCG step with multiplier `mul` (43_pcg.md R301). -/
def pcgStep {W : Nat} (mul : BitVec W) (c : PcgCtx W) : PcgCtx W :=
  { c with state := c.state * mul + c.inc }

/-- Seeding from `(initstate, initseq)` (43_pcg.md R302). -/
def pcgSeed {W : Nat} (mul : BitVec W) (initstate initseq : BitVec W) : PcgCtx W :=
  let c : PcgCtx W := ⟨0, (initseq <<< 1) ||| 1⟩
  let c := pcgStep mul c
  let c := { c with state := c.state + initstate }
  pcgStep mul c

/-- The XSH-RR output of a 64-bit state (43_pcg.md R303). -/
def xshRr (s : Word64) : Word32 :=
  let x := ((s >>> 18) ^^^ s) >>> 27
  let rot := s >>> 59
  rotr (x.extractLsb' 0 32) rot.toNat

/-- The XSL-RR output of a 128-bit state (43_pcg.md R304). -/
def xslRr (s : Word128) : Word64 :=
  let x := s.extractLsb' 64 64 ^^^ s.extractLsb' 0 64
  let rot := s >>> 122
  rotr x rot.toNat

/-- `gen_PCG32`: the output of the state before the step (43_pcg.md R305). -/
def genPcg32 (c : Pcg32) : Word32 × Pcg32 := (xshRr c.state, pcgStep mul64 c)
/-- `gen_PCG64`: the output of the state before the step (43_pcg.md R306). -/
def genPcg64 (c : Pcg64) : Word64 × Pcg64 := (xslRr c.state, pcgStep mul128 c)

/-- An affine map `x ↦ mul * x + add` on `W`-bit words (43_pcg.md R308). -/
structure Affine (W : Nat) where
  mul : BitVec W
  add : BitVec W
  deriving DecidableEq, Repr

/-- The affine map of a count, its bits taken from least to most significant, at most `fuel` of them: `acc` is
the map so far and `cur` the map of the current bit's weight (43_pcg.md R308). -/
def affinePower {W : Nat} : Nat → Nat → Affine W → Affine W → Affine W
  | 0, _, acc, _ => acc
  | fuel + 1, n, acc, cur =>
    let acc' : Affine W :=
      if n % 2 = 1 then ⟨acc.mul * cur.mul, acc.add * cur.mul + cur.add⟩ else acc
    affinePower fuel (n / 2) acc' ⟨cur.mul * cur.mul, (cur.mul + 1) * cur.add⟩

/-- `advance(ctx, n)` by the composition of 43_pcg.md R308; its meaning is R307. A count of `W` bits has `W`
bits to walk. -/
def pcgAdvance {W : Nat} (mul : BitVec W) (c : PcgCtx W) (n : BitVec W) : PcgCtx W :=
  let p := affinePower W n.toNat ⟨1, 0⟩ ⟨mul, c.inc⟩
  { c with state := p.mul * c.state + p.add }

/-- A PCG blob: state then increment, little-endian, `size` bytes each (43_pcg.md R309, R310). -/
def pcgBlob {W : Nat} (size : Nat) (c : PcgCtx W) : List Byte :=
  leBytes size c.state.toNat ++ leBytes size c.inc.toNat

/-- The increment LOAD takes from a blob (43_pcg.md R311). -/
def loadInc {W : Nat} (inc : BitVec W) : BitVec W :=
  match Config.loadIncMode with
  | .forceOdd => inc ||| 1
  | .raw => inc

/-- The context a PCG blob of the right length holds; never invalid (43_pcg.md R309 to R311). -/
def pcgOfBlob (W size : Nat) (bs : List Byte) : PcgCtx W :=
  ⟨BitVec.ofNat W (leValue (bs.take size)),
    loadInc (BitVec.ofNat W (leValue ((bs.drop size).take size)))⟩

/-- `enc_PCG32` (43_pcg.md R309). -/
def encPcg32 (c : Pcg32) : List Byte := pcgBlob 8 c
/-- `dec_PCG32` (43_pcg.md R309, R311). -/
def decPcg32 (bs : List Byte) : Option Pcg32 := some (pcgOfBlob 64 8 bs)
/-- `enc_PCG64` (43_pcg.md R310). -/
def encPcg64 (c : Pcg64) : List Byte := pcgBlob 16 c
/-- `dec_PCG64` (43_pcg.md R310, R311). -/
def decPcg64 (bs : List Byte) : Option Pcg64 := some (pcgOfBlob 128 16 bs)

/-- The entropy answer as a context meeting the odd-increment invariant: every odd increment is some answer's
(41_bitgen.md R142, 10_state.md R34). -/
def oddInc {W : Nat} (c : PcgCtx W) : PcgCtx W := { c with inc := c.inc ||| 1 }

end Sys2Proof.Machine
end

