-- ==== Sys2Proof/Machine/Pcg32Commands.lean ====
section
/-! DEFINITION. The PCG32 commands (43_pcg.md R320 to R328). -/

namespace Sys2Proof.Machine

/-- `pcg32.seed`: seed from A[63:0] and B[63:0] (43_pcg.md R320). -/
def execPcg32Seed (s : State) : Host.Outcome State Fault Refusal :=
  .next (seedCommand pcg32Unit (pcgSeed mul64 (opA64 s) (opB64 s)) s)

/-- `pcg32.seede`: seed from the entropy input, the increment odd (43_pcg.md R321; 41_bitgen.md R142). -/
def execPcg32Seede (s : State) : Host.Outcome State Fault Refusal :=
  .next (seedeCommand pcg32Unit (fun d => oddInc (Config.entropyPcg32 d)) s)

/-- `pcg32.next32` (43_pcg.md R322; 41_bitgen.md R136). -/
def execPcg32Next32 (s : State) : Host.Outcome State Fault Refusal :=
  .next (drawCommand pcg32Unit (next32Native genPcg32) s)

/-- `pcg32.next64` (43_pcg.md R323; 41_bitgen.md R137). -/
def execPcg32Next64 (s : State) : Host.Outcome State Fault Refusal :=
  .next (drawCommand pcg32Unit (next64Pair genPcg32) s)

/-- `pcg32.next128` (43_pcg.md R324; 41_bitgen.md R138). -/
def execPcg32Next128 (s : State) : Host.Outcome State Fault Refusal :=
  .next (drawCommand pcg32Unit (next128 (next64Pair genPcg32)) s)

/-- `pcg32.bit` (43_pcg.md R325; 41_bitgen.md R139). -/
def execPcg32Bit (s : State) : Host.Outcome State Fault Refusal :=
  .next (drawCommand pcg32Unit (drawBit genPcg32) s)

/-- `pcg32.adv`: advance by A[63:0] steps (43_pcg.md R326). -/
def execPcg32Adv (s : State) : Host.Outcome State Fault Refusal :=
  .next (moveCommand pcg32Unit (fun c => pcgAdvance mul64 c (opA64 s)) s)

/-- `pcg32.save`: the SAVE frame, 16 bytes (43_pcg.md R327; 41_bitgen.md R140). -/
def execPcg32Save (s : State) : Host.Outcome State Fault Refusal :=
  .next (saveCommand pcg32Unit 16 encPcg32 s)

/-- `pcg32.load`: the LOAD frame, 16 bytes (43_pcg.md R328; 41_bitgen.md R141). -/
def execPcg32Load (s : State) : Host.Outcome State Fault Refusal :=
  .next (loadCommand pcg32Unit 16 decPcg32 s)

end Sys2Proof.Machine
end

