-- ==== Sys2Proof/Machine/Pcg64Commands.lean ====
section
/-! DEFINITION. The PCG64 commands (43_pcg.md R340 to R348). -/

namespace Sys2Proof.Machine

/-- `pcg64.seed`: seed from A and B (43_pcg.md R340). -/
def execPcg64Seed (s : State) : Host.Outcome State Fault Refusal :=
  .next (seedCommand pcg64Unit (pcgSeed mul128 s.a s.b) s)

/-- `pcg64.seede`: seed from the entropy input, the increment odd (43_pcg.md R341; 41_bitgen.md R142). -/
def execPcg64Seede (s : State) : Host.Outcome State Fault Refusal :=
  .next (seedeCommand pcg64Unit (fun d => oddInc (Config.entropyPcg64 d)) s)

/-- `pcg64.next32` (43_pcg.md R342; 41_bitgen.md R136). -/
def execPcg64Next32 (s : State) : Host.Outcome State Fault Refusal :=
  .next (drawCommand pcg64Unit (next32Narrow genPcg64) s)

/-- `pcg64.next64` (43_pcg.md R343; 41_bitgen.md R137). -/
def execPcg64Next64 (s : State) : Host.Outcome State Fault Refusal :=
  .next (drawCommand pcg64Unit (next64Native genPcg64) s)

/-- `pcg64.next128` (43_pcg.md R344; 41_bitgen.md R138). -/
def execPcg64Next128 (s : State) : Host.Outcome State Fault Refusal :=
  .next (drawCommand pcg64Unit (next128 (next64Native genPcg64)) s)

/-- `pcg64.bit` (43_pcg.md R345; 41_bitgen.md R139). -/
def execPcg64Bit (s : State) : Host.Outcome State Fault Refusal :=
  .next (drawCommand pcg64Unit (drawBit genPcg64) s)

/-- `pcg64.adv`: advance by A steps (43_pcg.md R346). -/
def execPcg64Adv (s : State) : Host.Outcome State Fault Refusal :=
  .next (moveCommand pcg64Unit (fun c => pcgAdvance mul128 c s.a) s)

/-- `pcg64.save`: the SAVE frame, 32 bytes (43_pcg.md R347; 41_bitgen.md R140). -/
def execPcg64Save (s : State) : Host.Outcome State Fault Refusal :=
  .next (saveCommand pcg64Unit 32 encPcg64 s)

/-- `pcg64.load`: the LOAD frame, 32 bytes (43_pcg.md R348; 41_bitgen.md R141). -/
def execPcg64Load (s : State) : Host.Outcome State Fault Refusal :=
  .next (loadCommand pcg64Unit 32 decPcg64 s)

end Sys2Proof.Machine
end

