-- ==== Sys2Proof/Machine/Flags.lean ====
section
/-! DEFINITION. The carry flag's computation (40_w128.md R101, R102) and the words software reads: STATUS
(10_state.md R27), FLAGS (R24) and LEN (R25). -/

namespace Sys2Proof.Machine

/-- The exact 129-bit sum of two 128-bit operands and a carry in (40_w128.md R101, R102). -/
def wideSum (a b : Word128) (carryIn : Bool) : BitVec 129 :=
  a.setWidth 129 + b.setWidth 129 + (BitVec.ofBool carryIn).setWidth 129

/-- `s[127:0]` of a 129-bit sum (40_w128.md R101). -/
def sumLow (s : BitVec 129) : Word128 := s.extractLsb' 0 128

/-- `s[128]` of a 129-bit sum: the carry out of bit 127 (40_w128.md R101). -/
def sumCarry (s : BitVec 129) : Bool := s.getLsbD 128

/-- The number of a fault code (60_exceptions.md R400). -/
def faultCodeBits : FaultCode → BitVec 4
  | .none => 0
  | .illegal => 1
  | .precond => 2
  | .hazard => 3
  | .noseed => 4
  | .entropy => 5

/-- The STATUS register, from bit 31 down (10_state.md R27). -/
def statusWord (s : State) : Word32 :=
  (0 : BitVec 20)
    ++ BitVec.ofBool s.validPcg64 ++ BitVec.ofBool s.validPcg32
    ++ BitVec.ofBool s.validMt64 ++ BitVec.ofBool s.validMt32
    ++ faultCodeBits s.code
    ++ (0 : BitVec 1) ++ BitVec.ofBool s.rj ++ BitVec.ofBool s.fault ++ BitVec.ofBool s.busy

/-- The FLAGS register: bit 0 is C, the others read as zero (10_state.md R24). -/
def flagsWord (s : State) : Word32 := (BitVec.ofBool s.c).setWidth 32

/-- The LEN register: bits 15:0, the others read as zero (10_state.md R25). -/
def lenWord (s : State) : Word32 := s.len.setWidth 32

end Sys2Proof.Machine
end

