-- ==== Sys2Proof/Machine/W128.lean ====
section
/-! DEFINITION. The 128-bit arithmetic unit (40_w128.md R100 to R109). -/

namespace Sys2Proof.Machine

/-- `w128.add`: the 128-bit sum in R, the carry out in C (40_w128.md R101). -/
def execW128Add (s : State) : Host.Outcome State Fault Refusal :=
  let t := wideSum s.a s.b false
  .next (complete { setR (sumLow t) s with c := sumCarry t })

/-- `w128.adc`: the sum with C as carry in (40_w128.md R102). -/
def execW128Adc (s : State) : Host.Outcome State Fault Refusal :=
  let t := wideSum s.a s.b s.c
  .next (complete { setR (sumLow t) s with c := sumCarry t })

/-- `w128.mulw`: the exact product of A[63:0] and B[63:0] (40_w128.md R103). -/
def execW128Mulw (s : State) : Host.Outcome State Fault Refusal :=
  .next (complete (setR (zext 128 (opA64 s) * zext 128 (opB64 s)) s))

/-- `w128.mul`: the low 128 bits of A * B (40_w128.md R104). -/
def execW128Mul (s : State) : Host.Outcome State Fault Refusal :=
  .next (complete (setR (s.a * s.b) s))

/-- `w128.shl`: logical shift left by all of B, 0 from 128 on (40_w128.md R105). -/
def execW128Shl (s : State) : Host.Outcome State Fault Refusal :=
  let n := opShiftAmount s
  .next (complete (setR (if n < 128 then s.a <<< n else (0 : Word128)) s))

/-- `w128.shr`: logical shift right by all of B, 0 from 128 on (40_w128.md R106). -/
def execW128Shr (s : State) : Host.Outcome State Fault Refusal :=
  let n := opShiftAmount s
  .next (complete (setR (if n < 128 then s.a >>> n else (0 : Word128)) s))

/-- `w128.rotr`: 128-bit rotate right by B[6:0] (40_w128.md R107). -/
def execW128Rotr (s : State) : Host.Outcome State Fault Refusal :=
  .next (complete (setR (rotr s.a (opRotate128 s)) s))

/-- `w128.rotr64`: 64-bit rotate right of A[63:0] by B[5:0] (40_w128.md R108). -/
def execW128Rotr64 (s : State) : Host.Outcome State Fault Refusal :=
  .next (complete (setR (rotr (opA64 s) (opRotate64 s)) s))

/-- `w128.rotr32`: 32-bit rotate right of A[31:0] by B[4:0] (40_w128.md R109). -/
def execW128Rotr32 (s : State) : Host.Outcome State Fault Refusal :=
  .next (complete (setR (rotr (opA32 s) (opRotate32 s)) s))

end Sys2Proof.Machine
end

