-- ==== Sys2Proof/Machine/Dispatch.lean ====
section
/-! DEFINITION. What each command does: one arm per constructor of `Instr`, one call of its meaning. -/

namespace Sys2Proof.Machine

-- The engine's evaluation of a decoded command, its completion or fault included (41_bitgen.md R131).
def exec (i : Instr) (s : State) : Host.Outcome State Fault Refusal :=
  match i with
  | .nop => Sys2Proof.Machine.execNop s
  | .mt32Seed => Sys2Proof.Machine.execMt32Seed s
  | .mt32Seeda => Sys2Proof.Machine.execMt32Seeda s
  | .mt32Seede => Sys2Proof.Machine.execMt32Seede s
  | .mt32Next32 => Sys2Proof.Machine.execMt32Next32 s
  | .mt32Next64 => Sys2Proof.Machine.execMt32Next64 s
  | .mt32Next128 => Sys2Proof.Machine.execMt32Next128 s
  | .mt32Bit => Sys2Proof.Machine.execMt32Bit s
  | .mt32Jump => Sys2Proof.Machine.execMt32Jump s
  | .mt32Save => Sys2Proof.Machine.execMt32Save s
  | .mt32Load => Sys2Proof.Machine.execMt32Load s
  | .mt64Seed => Sys2Proof.Machine.execMt64Seed s
  | .mt64Seeda => Sys2Proof.Machine.execMt64Seeda s
  | .mt64Seede => Sys2Proof.Machine.execMt64Seede s
  | .mt64Next32 => Sys2Proof.Machine.execMt64Next32 s
  | .mt64Next64 => Sys2Proof.Machine.execMt64Next64 s
  | .mt64Next128 => Sys2Proof.Machine.execMt64Next128 s
  | .mt64Bit => Sys2Proof.Machine.execMt64Bit s
  | .mt64Save => Sys2Proof.Machine.execMt64Save s
  | .mt64Load => Sys2Proof.Machine.execMt64Load s
  | .pcg32Seed => Sys2Proof.Machine.execPcg32Seed s
  | .pcg32Seede => Sys2Proof.Machine.execPcg32Seede s
  | .pcg32Next32 => Sys2Proof.Machine.execPcg32Next32 s
  | .pcg32Next64 => Sys2Proof.Machine.execPcg32Next64 s
  | .pcg32Next128 => Sys2Proof.Machine.execPcg32Next128 s
  | .pcg32Bit => Sys2Proof.Machine.execPcg32Bit s
  | .pcg32Adv => Sys2Proof.Machine.execPcg32Adv s
  | .pcg32Save => Sys2Proof.Machine.execPcg32Save s
  | .pcg32Load => Sys2Proof.Machine.execPcg32Load s
  | .pcg64Seed => Sys2Proof.Machine.execPcg64Seed s
  | .pcg64Seede => Sys2Proof.Machine.execPcg64Seede s
  | .pcg64Next32 => Sys2Proof.Machine.execPcg64Next32 s
  | .pcg64Next64 => Sys2Proof.Machine.execPcg64Next64 s
  | .pcg64Next128 => Sys2Proof.Machine.execPcg64Next128 s
  | .pcg64Bit => Sys2Proof.Machine.execPcg64Bit s
  | .pcg64Adv => Sys2Proof.Machine.execPcg64Adv s
  | .pcg64Save => Sys2Proof.Machine.execPcg64Save s
  | .pcg64Load => Sys2Proof.Machine.execPcg64Load s
  | .w128Add => Sys2Proof.Machine.execW128Add s
  | .w128Adc => Sys2Proof.Machine.execW128Adc s
  | .w128Mulw => Sys2Proof.Machine.execW128Mulw s
  | .w128Mul => Sys2Proof.Machine.execW128Mul s
  | .w128Shl => Sys2Proof.Machine.execW128Shl s
  | .w128Shr => Sys2Proof.Machine.execW128Shr s
  | .w128Rotr => Sys2Proof.Machine.execW128Rotr s
  | .w128Rotr64 => Sys2Proof.Machine.execW128Rotr64 s
  | .w128Rotr32 => Sys2Proof.Machine.execW128Rotr32 s

end Sys2Proof.Machine
end

