-- ==== Sys2Proof/Machine/Port.lean ====
section
/-! DEFINITION. The port: its map (20_memory.md R51), reads and writes (R52 to R61), issue (41_bitgen.md R130),
and accesses while a command is in flight (70_reset_and_hazards.md R504, R505). -/

namespace Sys2Proof.Machine

/-- What an admitted offset names (20_memory.md R51). -/
inductive PortReg where
  | cmd
  | status
  | len
  | flags
  /-- Port word `k` of A. -/
  | a (k : Nat)
  /-- Port word `k` of B. -/
  | b (k : Nat)
  /-- Port word `k` of R. -/
  | r (k : Nat)
  /-- Port word `k` of BUF. -/
  | buf (k : Nat)
  | reserved
  deriving DecidableEq, Repr

/-- The port map (20_memory.md R51); every other offset of the window is reserved (R56). -/
def portReg (off : Nat) : PortReg :=
  if off = 0x0000 then .cmd
  else if off = 0x0004 then .status
  else if off = 0x0008 then .len
  else if off = 0x000C then .flags
  else if 0x0010 ≤ off ∧ off < 0x0020 then .a ((off - 0x0010) / 4)
  else if 0x0020 ≤ off ∧ off < 0x0030 then .b ((off - 0x0020) / 4)
  else if 0x0030 ≤ off ∧ off < 0x0040 then .r ((off - 0x0030) / 4)
  else if 0x1000 ≤ off ∧ off < 0x19C4 then .buf ((off - 0x1000) / 4)
  else .reserved

/-- The offset of a port register (20_memory.md R51); for the reserved class, the first reserved offset. -/
def portOffset : PortReg → Nat
  | .cmd => 0x0000
  | .status => 0x0004
  | .len => 0x0008
  | .flags => 0x000C
  | .a k => 0x0010 + 4 * k
  | .b k => 0x0020 + 4 * k
  | .r k => 0x0030 + 4 * k
  | .buf k => 0x1000 + 4 * k
  | .reserved => 0x0040

/-- Issue of a command word: ignored while FAULT is set, a hazard while BUSY is set, otherwise latched in
PENDING (41_bitgen.md R130, 70_reset_and_hazards.md R504). -/
def issue (v : Word32) (s : State) : State :=
  if s.fault then s
  else if s.busy then raiseHazard s
  else { s with pending := v, busy := true }

/-- A write to a register the host may write: dropped with a HAZARD while a command is in flight
(70_reset_and_hazards.md R504). -/
def writeWhenIdle (s written : State) : State := if s.busy then raiseHazard s else written

/-- A 32-bit port write (20_memory.md R51, R56, R61). -/
def writePort (p : PortReg) (v : Word32) (s : State) : State :=
  match p with
  | .cmd => issue v s
  | .status => s
  | .len => writeWhenIdle s { s with len := v.extractLsb' 0 16 }
  | .flags => writeWhenIdle s { s with c := v.getLsbD 0 }
  | .a k => writeWhenIdle s { s with a := setPortWord s.a k v }
  | .b k => writeWhenIdle s { s with b := setPortWord s.b k v }
  | .r _ => s
  | .buf k => writeWhenIdle s (memWrite (4 * k) (leBytes 4 v.toNat) s)
  | .reserved => s

/-- A read of R, FLAGS, LEN or BUF: any value while a command is in flight (70_reset_and_hazards.md R505). -/
def readWhenIdle (s : State) (idle : Word32 × State) : Word32 × State :=
  if s.busy then (Config.busyRead s.draws, { s with draws := s.draws + 1 }) else idle

/-- A host read of port word BUFk: `MemRead(4k, 4)` (20_memory.md R61). -/
def readBuf (k : Nat) (s : State) : Word32 × State :=
  let p := memRead (4 * k) 4 s
  (BitVec.ofNat 32 (leValue p.1), p.2)

/-- A 32-bit port read: the value, and the state with its count of free values advanced where one was taken
(20_memory.md R51, R56, R57, R61; 70_reset_and_hazards.md R505). -/
def readPort (p : PortReg) (s : State) : Word32 × State :=
  match p with
  | .cmd => (0, s)
  | .status => (statusWord s, s)
  | .len => readWhenIdle s (lenWord s, s)
  | .flags => readWhenIdle s (flagsWord s, s)
  | .a k => (portWord s.a k, s)
  | .b k => (portWord s.b k, s)
  | .r k => readWhenIdle s (portWord s.r k, s)
  | .buf k => readWhenIdle s (readBuf k s)
  | .reserved => (0, s)

end Sys2Proof.Machine
end

