-- ==== Sys2Proof/Machine/HostAgent.lean ====
section
/-! DEFINITION. The host agent: what its statements do (30_encoding.md R87), and the assembler's statements and
pseudo-instructions as lists of them (R87, R88). Log 1. -/

namespace Sys2Proof.Machine

/-- A host variable's value; one that nothing has assigned reads as 0 (DESIGN CHOICE, log 25). -/
def hostVar (s : State) (h : Nat) : Nat := (List.lookup h s.hostVars).getD 0

/-- A host variable is assigned. -/
def setHostVar (h v : Nat) (s : State) : State :=
  { s with hostVars := (h, v) :: s.hostVars.filter fun p => p.1 != h }

/-- The value of a host expression (log 1, log 31). -/
def evalHostExpr (s : State) : HostExpr → Nat
  | .lit n => n
  | .var h => hostVar s h
  | .varAt base index => hostVar s (base + evalHostExpr s index)
  | .add x y => evalHostExpr s x + evalHostExpr s y
  | .band x y => evalHostExpr s x &&& evalHostExpr s y
  | .slice x hi lo => evalHostExpr s x / 2 ^ lo % 2 ^ (hi + 1 - lo)
  | .cat x width y => evalHostExpr s x * 2 ^ width + evalHostExpr s y % 2 ^ width

/-- The value of a host condition (log 1). -/
def evalHostCond (s : State) : HostCond → Bool
  | .eq x y => evalHostExpr s x == evalHostExpr s y
  | .lt x y => decide (evalHostExpr s x < evalHostExpr s y)

/-- The host goes on to its next statement. -/
def hostNextStmt (s : State) : State := { s with hostAt := s.hostAt + 1 }

/-- The effect of one host statement that has a step (30_encoding.md R87). -/
def hostStmtStep (st : HostStmt) (s : State) : State :=
  match st with
  | .write _ off v => hostNextStmt (writePort (portReg off) (BitVec.ofNat 32 (evalHostExpr s v)) s)
  | .read _ off h =>
    let p := readPort (portReg off) s
    hostNextStmt (setHostVar h p.1.toNat p.2)
  | .assign h e => hostNextStmt (setHostVar h (evalHostExpr s e) s)
  | .assignAt base index e =>
    hostNextStmt (setHostVar (base + evalHostExpr s index) (evalHostExpr s e) s)
  | .ifGoto cond target => if evalHostCond s cond then { s with hostAt := target } else hostNextStmt s
  | .goto target => { s with hostAt := target }
  | .reset => hostNextStmt (resetBlock s)

/-- The host's next statement, or `none` when its program has ended. -/
def hostStmt (s : State) : Option HostStmt := s.hostProg[s.hostAt]?

/-! ### The assembler (30_encoding.md R87) -/

/-- `wr P, v`. -/
def asmWr (p : PortReg) (v : HostExpr) : HostStmt := .write 32 (portOffset p) v
/-- `wrbuf k, v`. -/
def asmWrbuf (k : Nat) (v : HostExpr) : HostStmt := asmWr (.buf k) v
/-- `rd P -> h`. -/
def asmRd (p : PortReg) (h : Nat) : HostStmt := .read 32 (portOffset p) h
/-- `rdbuf k -> h`. -/
def asmRdbuf (k h : Nat) : HostStmt := asmRd (.buf k) h
/-- `issue m`: `wr CMD, OPC(m)`. -/
def asmIssue (m : Instr) : HostStmt := asmWr .cmd (.lit (opc m))

/-! ### The pseudo-instructions (30_encoding.md R88) -/

/-- `wr A, v`: its four port words. -/
def asmWrA (v : HostExpr) : List HostStmt :=
  [asmWr (.a 0) (.slice v 31 0), asmWr (.a 1) (.slice v 63 32),
    asmWr (.a 2) (.slice v 95 64), asmWr (.a 3) (.slice v 127 96)]

/-- `wr B, v`: its four port words. -/
def asmWrB (v : HostExpr) : List HostStmt :=
  [asmWr (.b 0) (.slice v 31 0), asmWr (.b 1) (.slice v 63 32),
    asmWr (.b 2) (.slice v 95 64), asmWr (.b 3) (.slice v 127 96)]

/-- `rd R -> h`, with the variables `h0 .. h3` for the port words. -/
def asmRdR (h h0 h1 h2 h3 : Nat) : List HostStmt :=
  [asmRd (.r 0) h0, asmRd (.r 1) h1, asmRd (.r 2) h2, asmRd (.r 3) h3,
    .assign h (.cat (.cat (.cat (.var h3) 32 (.var h2)) 32 (.var h1)) 32 (.var h0))]

/-- `wait`, standing at place `here`, with `t` for the status: poll until BUSY is 0. -/
def asmWait (here t : Nat) : List HostStmt :=
  [asmRd .status t, .ifGoto (.eq (.slice (.var t) 0 0) (.lit 1)) here]

/-- `exec m`, standing at place `here`: `issue m`, then `wait`. -/
def asmExec (m : Instr) (here t : Nat) : List HostStmt := asmIssue m :: asmWait (here + 1) t

/-- `clc`. -/
def asmClc : HostStmt := asmWr .flags (.lit 0)
/-- `sec`. -/
def asmSec : HostStmt := asmWr .flags (.lit 1)

/-- `chkfault`: go to `faulted` if FAULT is 1. -/
def asmChkfault (t faulted : Nat) : List HostStmt :=
  [asmRd .status t, .ifGoto (.eq (.slice (.var t) 1 1) (.lit 1)) faulted]

end Sys2Proof.Machine
end

