-- ==== Sys2Proof/Machine/Agents.lean ====
section
/-! DEFINITION. The two agents' moves and which of them moves (10_state.md R20, 41_bitgen.md R131,
60_exceptions.md R409, 70_reset_and_hazards.md R507). -/

namespace Sys2Proof.Machine

/-- The engine's step, taken while BUSY is set: PENDING is decoded and its command evaluated, or ILLEGAL is
raised (41_bitgen.md R131, 30_encoding.md R81). -/
def engineStep (s : State) : Host.Outcome State Fault Refusal :=
  match decode s.pending with
  | .command i => exec i s
  | .illegal _ => .next (raiseFault .illegal s)

/-- The host has a step: its program has not ended and its next statement is no access that is not admitted
(20_memory.md R55). -/
def hostHasStep (s : State) : Bool :=
  match hostStmt s with
  | some st => st.hasStep
  | none => false

/-- Which agent moves: the one that has a step; where both have one, the one `turns` names, and the engine once
`turns` is used up, so that a command in flight takes its step (60_exceptions.md R409,
70_reset_and_hazards.md R507; log 2). -/
def nextAgent (s : State) : Option Agent :=
  if s.busy then
    if hostHasStep s ∧ s.turns.head? = some .host then some .host else some .engine
  else if hostHasStep s then some .host else none

/-- The turn just used is dropped (log 2). -/
def dropTurn (s : State) : State := { s with turns := s.turns.tail }

/-- The host's step (30_encoding.md R87). -/
def hostStep (s : State) : Host.Outcome State Fault Refusal :=
  match hostStmt s with
  | some st => .next (hostStmtStep st s)
  | none => .next s

/-- Neither agent has a step: an idle block keeps its state when the host has ended (60_exceptions.md R419;
log 14), and the host is stuck at an access that is not admitted (20_memory.md R55; log 12). -/
def noStep (s : State) : Host.Outcome State Fault Refusal :=
  match hostStmt s with
  | some _ => .fault .accessNotAdmitted
  | none => .next s

/-- A 32-bit word from the bits of an opcode-table row, the bits above `nbits` zero. -/
def tableWord (nbits w : Nat) : Word32 := BitVec.ofNat 32 (w % 2 ^ nbits)

/-- The state in which a command word has just been issued and the engine moves next (41_bitgen.md R130;
log 13). -/
def issuedNext (v : Word32) (s : State) : State :=
  { s with pending := v, busy := true, turns := .engine :: s.turns }

end Sys2Proof.Machine
end

