-- ==== Sys2Proof/Machine/Step.lean ====
section
/-! DEFINITION. One step of the machine: one move of the host or of the engine. -/

namespace Sys2Proof.Machine

/-- One step: the agent that moves takes its step, or nothing moves (10_state.md R20, 60_exceptions.md R409). -/
def step (s : State) : Host.Outcome State Fault Refusal :=
  match nextAgent s with
  | some .engine => engineStep (dropTurn s)
  | some .host => hostStep (dropTurn s)
  | none => noStep s

/-- The state whose very next step runs the command word of an opcode-table row: the word stands in PENDING,
BUSY is set, and the engine moves next. It stands for the host's CMD write and the choice of the engine's
turn (log 13). -/
def State.withFetchWord (s : State) (nbits w : Nat) : State := issuedNext (tableWord nbits w) s

end Sys2Proof.Machine
end

