-- ==== Sys2Proof/Safety.lean ====
section
/-! DEFINITION. The terms claims use: the end of a run (70_reset_and_hazards.md R510), the invariant of every
reachable state (10_state.md R34 and the canonical form of BUF), and what part of a state is the block's. -/

namespace Sys2Proof.Machine

/-- A faulted run: never a successful end (70_reset_and_hazards.md R510). -/
def Faulted (s : State) : Prop := s.fault = true

/-- The successful end of a run: the host has executed its last statement, BUSY = 0 and FAULT = 0
(70_reset_and_hazards.md R510). -/
def RunEnded (s : State) : Prop := hostStmt s = none ∧ s.busy = false ∧ s.fault = false

/-- Two contexts a result does not tell apart: both invalid, or both valid with one output stream
(70_reset_and_hazards.md R510). -/
def SameStream {γ ω : Type} (gen : γ → ω × γ) (v v' : Bool) (c c' : γ) : Prop :=
  v = v' ∧ (v = true → OutputEquivalent gen c c')

/-- Two states with the same result of a run: A, B, R, C, LEN, STATUS, BUF and the output stream of each
context whose VALID bit is 1 (70_reset_and_hazards.md R510). -/
def SameResult (s t : State) : Prop :=
  s.a = t.a ∧ s.b = t.b ∧ s.r = t.r ∧ s.c = t.c ∧ s.len = t.len
    ∧ statusWord s = statusWord t ∧ s.buf = t.buf
    ∧ SameStream genMt32 s.validMt32 t.validMt32 s.mt32 t.mt32
    ∧ SameStream genMt64 s.validMt64 t.validMt64 s.mt64 t.mt64
    ∧ SameStream genPcg32 s.validPcg32 t.validPcg32 s.pcg32 t.pcg32
    ∧ SameStream genPcg64 s.validPcg64 t.validPcg64 s.pcg64 t.pcg64

/-- The invariant of every reachable state: BUF in its canonical form; both cursors in range and both
increments odd (10_state.md R34); FAULT set exactly when a code is recorded (60_exceptions.md R401). -/
structure Inv (s : State) : Prop where
  bufWf : Memory.wf s.buf = true
  mt32Cursor : s.mt32.w.val ≤ 624
  mt64Cursor : s.mt64.w.val ≤ 312
  pcg32Odd : s.pcg32.inc.getLsbD 0 = true
  pcg64Odd : s.pcg64.inc.getLsbD 0 = true
  faultCode : s.fault = true ↔ s.code ≠ .none

/-- The contexts of two states agree. -/
def SameContexts (s t : State) : Prop :=
  s.mt32 = t.mt32 ∧ s.mt64 = t.mt64 ∧ s.pcg32 = t.pcg32 ∧ s.pcg64 = t.pcg64

/-- The VALID bits of two states agree. -/
def SameValid (s t : State) : Prop :=
  s.validMt32 = t.validMt32 ∧ s.validMt64 = t.validMt64 ∧ s.validPcg32 = t.validPcg32
    ∧ s.validPcg64 = t.validPcg64

/-- The host agent of two states agrees: no command moves it. -/
def SameHost (s t : State) : Prop :=
  s.hostProg = t.hostProg ∧ s.hostAt = t.hostAt ∧ s.hostVars = t.hostVars ∧ s.turns = t.turns

/-! ### Classes of commands, by unit and operation (30_encoding.md R80, R83) -/

/-- A command of one of the four generator units. -/
def isGeneratorCommand (i : Instr) : Bool := decide (1 ≤ unitOf i) && decide (unitOf i ≤ 4)

/-- SAVE commands. -/
def isSave (i : Instr) : Bool := isGeneratorCommand i && opOf i == 8

/-- LOAD commands. -/
def isLoad (i : Instr) : Bool := isGeneratorCommand i && opOf i == 9

/-- SEED, SEEDA, SEEDE and LOAD: the commands that may construct a context (10_state.md R33). -/
def constructsContext (i : Instr) : Bool := isGeneratorCommand i && (decide (opOf i ≤ 2) || opOf i == 9)

/-- Every other generator command: it needs a context that holds a value (41_bitgen.md R133). -/
def needsContext (i : Instr) : Bool := isGeneratorCommand i && !constructsContext i

/-- The commands that produce a value in R: draws and W128 (10_state.md R23, 30_encoding.md R84). -/
def producesValue (i : Instr) : Bool :=
  unitOf i == 5 || (isGeneratorCommand i && decide (3 ≤ opOf i) && decide (opOf i ≤ 6))

/-- The VALID bit of a generator unit (10_state.md R27). -/
def validOf (s : State) (unit : Nat) : Bool :=
  match unit with
  | 1 => s.validMt32
  | 2 => s.validMt64
  | 3 => s.validPcg32
  | 4 => s.validPcg64
  | _ => false

/-- The blob length of a generator unit (41_bitgen.md R140). -/
def blobLength (unit : Nat) : Nat :=
  match unit with
  | 1 => 2498
  | 2 => 2498
  | 3 => 16
  | 4 => 32
  | _ => 0

/-- The OPC values 30_encoding.md R85 lists as illegal. -/
def reservedOpc (n : Nat) : Prop :=
  (0x01 ≤ n ∧ n ≤ 0x0F) ∨ (0x1A ≤ n ∧ n ≤ 0x1F) ∨ n = 0x27 ∨ (0x2A ≤ n ∧ n ≤ 0x2F) ∨ n = 0x31
    ∨ (0x3A ≤ n ∧ n ≤ 0x3F) ∨ n = 0x41 ∨ (0x4A ≤ n ∧ n ≤ 0x4F) ∨ (0x59 ≤ n ∧ n ≤ 0x5F)
    ∨ (0x60 ≤ n ∧ n ≤ 0xFF)

/-- The causes of PRECOND: a command and the condition on its operands under which it raises it
(60_exceptions.md R403). -/
def PrecondCause (i : Instr) (s : State) : Prop :=
  (i = .mt32Jump ∧ s.validMt32 = true ∧ 2 ^ 63 ≤ s.a.toNat % 2 ^ 64)
    ∨ (i = .mt32Seeda ∧ (s.a.toNat = 0 ∨ 625 < s.a.toNat))
    ∨ (i = .mt64Seeda ∧ (s.a.toNat = 0 ∨ 312 < s.a.toNat))

/-- The move of the next step is not the host's `reset` statement (70_reset_and_hazards.md R500). -/
def NextMoveIsNotReset (s : State) : Prop := nextAgent s = some .host → hostStmt s ≠ some .reset

/-! ### The shape of the Mersenne Twister functions, apart from the model's own definitions -/

/-- `out` is the tempering of `y` by a right shift under a mask, two left shifts under masks and a right shift, bit
by bit (42_mt.md R203, R204; R203's first shift has no mask, which is the mask of all ones). -/
def TemperedBits {W : Nat} (u d s b t c l : Nat) (y out : BitVec W) : Prop :=
  ∃ y1 y2 y3 : BitVec W, ∀ i, i < W →
    y1.getLsbD i = (y.getLsbD i ^^ (y.getLsbD (i + u) && d.testBit i))
      ∧ y2.getLsbD i = (y1.getLsbD i ^^ (decide (s ≤ i) && y1.getLsbD (i - s) && b.testBit i))
      ∧ y3.getLsbD i = (y2.getLsbD i ^^ (decide (t ≤ i) && y2.getLsbD (i - t) && c.testBit i))
      ∧ out.getLsbD i = (y3.getLsbD i ^^ y3.getLsbD (i + l))

/-- One iteration of either pass of array seeding: `mt[i]` becomes `x`, the index goes on by one and wraps at `N`
to 1, where `mt[0]` becomes `mt[N-1]`; every other word stays (42_mt.md R209, R210). -/
def SeedIteration {W N : Nat} (x : Nat) (l l' : SeedLoop W N) : Prop :=
  (mtWord l'.mt l.i).toNat = x
    ∧ (∀ n, 1 ≤ n → n < N → n ≠ l.i → mtWord l'.mt n = mtWord l.mt n)
    ∧ mtWord l'.mt 0 = (if l.i + 1 = N then mtWord l'.mt (N - 1) else mtWord l.mt 0)
    ∧ l'.i = (if l.i + 1 = N then 1 else l.i + 1)

/-- `seeded` is array seeding by the two passes: from `start`, indices 1 and 0, the first pass `max(N, kl)` times,
the second `N - 1` times, then the top word, with the cursor `N`; the first pass multiplies by `m1` and adds
`key[j] + j`, the second multiplies by `m2` and subtracts `i`, modulo the width (42_mt.md R209, R210). -/
def ArraySeeding {W N : Nat} (start : Vector (BitVec W) N) (pass1 : List (BitVec W) → SeedLoop W N → SeedLoop W N)
    (pass2 : SeedLoop W N → SeedLoop W N) (shift m1 m2 top : Nat) (seeded : List (BitVec W) → MtCtx W N) :
    Prop :=
  let mixed := fun (l : SeedLoop W N) (m : Nat) =>
    let prev := (mtWord l.mt (l.i - 1)).toNat
    (mtWord l.mt l.i).toNat ^^^ ((prev ^^^ prev / 2 ^ shift) * m % 2 ^ W)
  (∀ (key : List (BitVec W)) (l : SeedLoop W N), 1 ≤ l.i → l.i < N → l.j < key.length →
      SeedIteration ((mixed l m1 + (key.getD l.j 0).toNat + l.j) % 2 ^ W) l (pass1 key l)
        ∧ (pass1 key l).j = (if l.j + 1 = key.length then 0 else l.j + 1))
    ∧ (∀ l : SeedLoop W N, 1 ≤ l.i → l.i < N →
      SeedIteration ((mixed l m2 + (2 ^ W - l.i)) % 2 ^ W) l (pass2 l) ∧ (pass2 l).j = l.j)
    ∧ ∀ key : List (BitVec W), 1 ≤ key.length →
      let l1 := repeatLoop (pass1 key) (max N key.length) ⟨start, 1, 0⟩
      let l2 := repeatLoop pass2 (N - 1) l1
      (mtWord (seeded key).mt 0).toNat = top
        ∧ (∀ n, 1 ≤ n → n < N → mtWord (seeded key).mt n = mtWord l2.mt n)
        ∧ (seeded key).w.val = N

end Sys2Proof.Machine
end

