-- ==== Sys2Proof/WellFormed.lean ====
section
/-! DEFINITION. Well-formedness. A command has no operand field (30_encoding.md R84), so every term of `Instr`
is well formed; a host program is well formed when each access is admitted (20_memory.md R55) and each
label names a statement or the end. -/

namespace Sys2Proof

/-- Every command is well formed: none has an operand field (30_encoding.md R84). -/
def Instr.wellFormed (_ : Instr) : Bool := true

namespace Machine

/-- A label of a program of `n` statements: the place of a statement, or the end. -/
def labelInside (n target : Nat) : Bool := decide (target ≤ n)

/-- A statement of a program of `n` statements is well formed. -/
def HostStmt.wellFormed (n : Nat) : HostStmt → Bool
  | .write width off _ => accessAdmitted width off
  | .read width off _ => accessAdmitted width off
  | .assign _ _ => true
  | .assignAt _ _ _ => true
  | .ifGoto _ target => labelInside n target
  | .goto target => labelInside n target
  | .reset => true

/-- A host program is well formed. -/
def hostProgWellFormed (p : List HostStmt) : Bool := p.all (HostStmt.wellFormed p.length)

end Machine

end Sys2Proof
end

