-- ==== Sys2Proof/Certificates/Slice0/Obligations.lean ====
section
/-! DEFINITION. The statements for the provers. Each docstring names the rules of spec/ it formalises. -/

open Sys2Proof Sys2Proof.Machine

/-! ### Encoding and decoding -/

/-- A word decodes to a command exactly when it is that command's word, so decoding and encoding agree in both
directions and every other word is illegal (30_encoding.md R80 to R82). -/
def Obligations.DecodeIffEncode : Prop :=
  ∀ (w : Word32) (i : Instr), decode w = .command i ↔ w = encode i

/-- The engine raises ILLEGAL, and changes nothing else, exactly on the words R85 lists; on every other word it
evaluates the command it decodes (30_encoding.md R85, R81). -/
def Obligations.IllegalWordsRaiseIllegal : Prop :=
  ∀ s : State,
    (256 ≤ s.pending.toNat ∨ reservedOpc s.pending.toNat →
      engineStep s = .next { s with
        fault := true, code := if s.code = .none then .illegal else s.code, rj := false, busy := false })
    ∧ (¬ (256 ≤ s.pending.toNat ∨ reservedOpc s.pending.toNat) →
      ∃ i, decode s.pending = .command i ∧ engineStep s = exec i s)

/-- Words written out from the opcode map, one of each unit and some illegal ones (30_encoding.md R82, R85). -/
def Obligations.SampleWordsDecode : Prop :=
  decode 0x00000000 = .command .nop ∧ decode 0x00000017 = .command .mt32Jump
    ∧ decode 0x00000021 = .command .mt64Seeda ∧ decode 0x00000037 = .command .pcg32Adv
    ∧ decode 0x00000048 = .command .pcg64Save ∧ decode 0x00000051 = .command .w128Adc
    ∧ decode 0x00000027 = .illegal .unassignedOpc ∧ decode 0x00000100 = .illegal .reservedBits

/-! ### The step -/

/-- A step of the engine runs the decoded command: step is exec at the state less the turn it used (41_bitgen.md
R131; that a step uses up a turn is the model's choice: log 2). The second clause is about the model's own
withFetchWord (log 13): the state it builds with an instruction's word, with PENDING the word, BUSY set
whatever FAULT is, and the engine's turn in front, runs exactly that instruction next. -/
def Obligations.StepRunsDecodedCommand : Prop :=
  (∀ (s : State) (i : Instr), nextAgent s = some .engine → decode s.pending = .command i →
      step s = exec i { s with turns := s.turns.tail })
    ∧ ∀ (s : State) (nbits w : Nat) (i : Instr), decode (BitVec.ofNat 32 (w % 2 ^ nbits)) = .command i →
        step (s.withFetchWord nbits w)
          = exec i { s with pending := BitVec.ofNat 32 (w % 2 ^ nbits), busy := true }

/-- Which agent moves. The engine has a step exactly while BUSY; the host's next statement runs when the host is
the one that moves; an idle block keeps its state once the host has ended (41_bitgen.md R131;
60_exceptions.md R409, R419; the choice by `turns` is the model's: log 2). -/
def Obligations.AgentsTakeTheirSteps : Prop :=
  (∀ s : State, nextAgent s = some .engine → s.busy = true)
    ∧ (∀ s : State, s.busy = true → hostHasStep s = false → nextAgent s = some .engine)
    ∧ (∀ s : State, s.busy = true → hostHasStep s = true →
        nextAgent s = if s.turns.head? = some .host then some .host else some .engine)
    ∧ (∀ (s : State) (st : HostStmt), s.busy = false → hostStmt s = some st → st.hasStep = true →
        step s = .next (hostStmtStep st { s with turns := s.turns.tail }))
    ∧ (∀ s : State, s.busy = false → hostStmt s = none → step s = .next s)

/-- An access of another width than 32 bits, at an offset that is no multiple of 4, or outside the window has no
step: the host never moves at it (20_memory.md R55). That the machine then answers the named stop, once no
command is in flight, is the model's reading of "the host is stuck at it": log 12. -/
def Obligations.UnadmittedAccessHasNoStep : Prop :=
  ∀ (s : State) (width off h : Nat) (v : HostExpr), (width ≠ 32 ∨ off % 4 ≠ 0 ∨ 0x2000 ≤ off) →
    hostStmt s = some (.read width off h) ∨ hostStmt s = some (.write width off v) →
    nextAgent s ≠ some .host ∧ (s.busy = false → step s = .fault .accessNotAdmitted)

/-- Progress: once BUSY is set, the command in flight ends (or reset abandons it) within one step more than there
are turns, whatever the free values are (70_reset_and_hazards.md R507). The bound by the turns is the model's
choice: log 2. -/
def Obligations.CommandInFlightEnds : Prop :=
  ∀ s : State, s.busy = true →
    ∃ (n : Nat) (t : State), n ≤ s.turns.length + 1 ∧ Host.Core.run core n s = .next t ∧ t.busy = false

/-! ### W128 -/

/-- `w128.add`: R and the carry, nothing else (40_w128.md R101). -/
def Obligations.W128AddResult : Prop :=
  decode 0x00000050 = .command .w128Add
    ∧ ∀ s : State, ∃ t, exec .w128Add s = .next t
        ∧ t.r.toNat = (s.a.toNat + s.b.toNat) % 2 ^ 128
        ∧ (t.c = true ↔ 2 ^ 128 ≤ s.a.toNat + s.b.toNat)
        ∧ t = { s with r := t.r, c := t.c, rj := false, busy := false }

/-- `w128.adc`: R and the carry, with C as carry in (40_w128.md R102). -/
def Obligations.W128AdcResult : Prop :=
  decode 0x00000051 = .command .w128Adc
    ∧ ∀ s : State, ∃ t, exec .w128Adc s = .next t
        ∧ t.r.toNat = (s.a.toNat + s.b.toNat + s.c.toNat) % 2 ^ 128
        ∧ (t.c = true ↔ 2 ^ 128 ≤ s.a.toNat + s.b.toNat + s.c.toNat)
        ∧ t = { s with r := t.r, c := t.c, rj := false, busy := false }

/-- `w128.mulw`: the exact product of the low halves (40_w128.md R103). -/
def Obligations.W128MulwResult : Prop :=
  decode 0x00000052 = .command .w128Mulw
    ∧ ∀ s : State, ∃ t, exec .w128Mulw s = .next t
        ∧ t.r.toNat = (s.a.toNat % 2 ^ 64) * (s.b.toNat % 2 ^ 64)
        ∧ t = { s with r := t.r, rj := false, busy := false }

/-- `w128.mul`: the low 128 bits of the product (40_w128.md R104). -/
def Obligations.W128MulResult : Prop :=
  decode 0x00000053 = .command .w128Mul
    ∧ ∀ s : State, ∃ t, exec .w128Mul s = .next t
        ∧ t.r.toNat = s.a.toNat * s.b.toNat % 2 ^ 128
        ∧ t = { s with r := t.r, rj := false, busy := false }

/-- `w128.shl` and `w128.shr`: logical shifts by all of B, 0 from 128 on (40_w128.md R105, R106). -/
def Obligations.W128ShiftResults : Prop :=
  decode 0x00000054 = .command .w128Shl ∧ decode 0x00000055 = .command .w128Shr
    ∧ (∀ s : State, ∃ t, exec .w128Shl s = .next t
        ∧ (s.b.toNat < 128 → t.r.toNat = s.a.toNat * 2 ^ s.b.toNat % 2 ^ 128)
        ∧ (128 ≤ s.b.toNat → t.r = 0)
        ∧ t = { s with r := t.r, rj := false, busy := false })
    ∧ ∀ s : State, ∃ t, exec .w128Shr s = .next t
        ∧ (s.b.toNat < 128 → t.r.toNat = s.a.toNat / 2 ^ s.b.toNat)
        ∧ (128 ≤ s.b.toNat → t.r = 0)
        ∧ t = { s with r := t.r, rj := false, busy := false }

/-- The three rotates, bit by bit: bit `i` of the result is bit `i + amount` of the value, modulo the width, and
the bits above the width are 0 (40_w128.md R107 to R109). -/
def Obligations.W128RotateResults : Prop :=
  decode 0x00000056 = .command .w128Rotr ∧ decode 0x00000057 = .command .w128Rotr64
    ∧ decode 0x00000058 = .command .w128Rotr32
    ∧ (∀ s : State, ∃ t, exec .w128Rotr s = .next t
        ∧ (∀ i, i < 128 → t.r.getLsbD i = s.a.getLsbD ((i + s.b.toNat % 128) % 128))
        ∧ t = { s with r := t.r, rj := false, busy := false })
    ∧ (∀ s : State, ∃ t, exec .w128Rotr64 s = .next t
        ∧ (∀ i, i < 64 → t.r.getLsbD i = s.a.getLsbD ((i + s.b.toNat % 64) % 64))
        ∧ t.r.toNat < 2 ^ 64
        ∧ t = { s with r := t.r, rj := false, busy := false })
    ∧ ∀ s : State, ∃ t, exec .w128Rotr32 s = .next t
        ∧ (∀ i, i < 32 → t.r.getLsbD i = s.a.getLsbD ((i + s.b.toNat % 32) % 32))
        ∧ t.r.toNat < 2 ^ 32
        ∧ t = { s with r := t.r, rj := false, busy := false }

/-- One PCG64 step through the W128 unit: `w128.mul` of the state and the multiplier, then `w128.add` of the
product and the increment, leaves in R the state a PCG64 step gives (40_w128.md R110). -/
def Obligations.W128ComputesPcg64Step : Prop :=
  ∀ (s t u : State) (c : Pcg64),
    exec .w128Mul { s with a := c.state, b := 0x2360ED051FC65DA44385DF649FCCF645 } = .next t →
    exec .w128Add { t with a := t.r, b := c.inc } = .next u →
    u.r = (genPcg64 c).2.state

/-! ### Rules over all commands -/

/-- `nop` changes nothing but RJ and the BUSY that its completion clears (41_bitgen.md R134). -/
def Obligations.NopOnlyCompletes : Prop :=
  decode 0x00000000 = .command .nop
    ∧ ∀ s : State, exec .nop s = .next { s with rj := false, busy := false }

/-- Every command, in every state and for every free value, completes or faults in one step: BUSY is cleared, and
RJ is set only by a LOAD (41_bitgen.md R131, R132). -/
def Obligations.EveryCommandEnds : Prop :=
  ∀ (i : Instr) (s : State), ∃ t, exec i s = .next t ∧ t.busy = false ∧ (t.rj = true → isLoad i = true)

/-- No command writes A, B or PENDING, or moves the host (10_state.md R21, R22, R26). -/
def Obligations.CommandsKeepOperands : Prop :=
  ∀ (i : Instr) (s t : State), exec i s = .next t →
    t.a = s.a ∧ t.b = s.b ∧ t.pending = s.pending ∧ SameHost s t

/-- C is written by `w128.add` and `w128.adc` only and read by `w128.adc` only (10_state.md R24). -/
def Obligations.CarryOnlyInAddAndAdc : Prop :=
  ∀ (i : Instr) (s t : State) (x : Bool), exec i s = .next t →
    (i ≠ .w128Add → i ≠ .w128Adc → t.c = s.c)
      ∧ (i ≠ .w128Adc → exec i { s with c := x } = .next { t with c := if i = .w128Add then t.c else x })

/-- Only a generator's own commands read or write its context and its VALID bit: any other command gives the same
next state whatever they are, and leaves them (10_state.md R29 to R32). -/
def Obligations.ContextsAreIndependent : Prop :=
  ∀ (i : Instr) (s t : State) (v : Bool), exec i s = .next t →
    (unitOf i ≠ 1 → ∀ c, exec i { s with mt32 := c, validMt32 := v } = .next { t with mt32 := c, validMt32 := v })
      ∧ (unitOf i ≠ 2 → ∀ c, exec i { s with mt64 := c, validMt64 := v }
          = .next { t with mt64 := c, validMt64 := v })
      ∧ (unitOf i ≠ 3 → ∀ c, exec i { s with pcg32 := c, validPcg32 := v }
          = .next { t with pcg32 := c, validPcg32 := v })
      ∧ (unitOf i ≠ 4 → ∀ c, exec i { s with pcg64 := c, validPcg64 := v }
          = .next { t with pcg64 := c, validPcg64 := v })

/-- Only SAVE writes BUF and LEN, and it leaves every byte beyond its blob; only draws and W128 write R
(20_memory.md R60; 41_bitgen.md R140; 10_state.md R23). -/
def Obligations.OnlySaveWritesBufOnlyValuesWriteR : Prop :=
  ∀ (i : Instr) (s t : State), exec i s = .next t →
    (isSave i = false → t.buf = s.buf ∧ t.len = s.len)
      ∧ (isSave i = true → ∀ x, blobLength (unitOf i) ≤ x → Memory.byte? t.buf x = Memory.byte? s.buf x)
      ∧ (producesValue i = false → t.r = s.r)

/-- SEED, SEEDA, SEEDE and an accepted LOAD of a generator set its VALID bit; no command clears one, and no step
but reset does (10_state.md R33). -/
def Obligations.ValidBitsOnlySetByConstruction : Prop :=
  (∀ (i : Instr) (s t : State) (unit : Nat), exec i s = .next t →
      (validOf s unit = true → validOf t unit = true)
        ∧ (validOf s unit = false → validOf t unit = true → unitOf i = unit ∧ constructsContext i = true))
    ∧ ∀ (s t : State) (unit : Nat), step s = .next t → NextMoveIsNotReset s →
        validOf s unit = true → validOf t unit = true

/-! ### Faults -/

/-- Every generator command but SEED, SEEDA, SEEDE and LOAD raises NOSEED, and does nothing else, while its
context holds no value, whatever its operands are (60_exceptions.md R405, R408). -/
def Obligations.NoseedWithoutContext : Prop :=
  ∀ (i : Instr) (s : State), needsContext i = true → validOf s (unitOf i) = false →
    exec i s = .next { s with
      fault := true, code := if s.code = .none then .noseed else s.code, rj := false, busy := false }

/-- PRECOND and its every cause: a negative jump count, a key length of 0 or above the limit. Each raises it; and
where a command records it, that command is one of the three and its condition held (60_exceptions.md
R403). -/
def Obligations.PrecondCauses : Prop :=
  (∀ s : State, s.validMt32 = true → 2 ^ 63 ≤ s.a.toNat % 2 ^ 64 →
      exec .mt32Jump s = .next { s with
        fault := true, code := if s.code = .none then .precond else s.code, rj := false, busy := false })
    ∧ (∀ s : State, s.a.toNat = 0 ∨ 625 < s.a.toNat →
      exec .mt32Seeda s = .next { s with
        fault := true, code := if s.code = .none then .precond else s.code, rj := false, busy := false })
    ∧ (∀ s : State, s.a.toNat = 0 ∨ 312 < s.a.toNat →
      exec .mt64Seeda s = .next { s with
        fault := true, code := if s.code = .none then .precond else s.code, rj := false, busy := false })
    ∧ ∀ (i : Instr) (s t : State), exec i s = .next t → s.code = .none → t.code = .precond →
        (i = .mt32Jump ∧ s.validMt32 = true ∧ 2 ^ 63 ≤ s.a.toNat % 2 ^ 64)
          ∨ (i = .mt32Seeda ∧ (s.a.toNat = 0 ∨ 625 < s.a.toNat))
          ∨ (i = .mt64Seeda ∧ (s.a.toNat = 0 ∨ 312 < s.a.toNat))

/-- The first code is kept, FAULT is never cleared by a command, and a command that raises a fault writes nothing
but FAULT, CODE, RJ and BUSY (60_exceptions.md R401; the count of free values is the model's own). -/
def Obligations.FaultingCommandWritesNothingElse : Prop :=
  ∀ (i : Instr) (s t : State), exec i s = .next t →
    (s.code ≠ .none → t.code = s.code)
      ∧ (s.fault = true → t.fault = true)
      ∧ (s.fault = false → t.fault = true →
          t = { s with fault := true, code := t.code, rj := false, busy := false, draws := t.draws })

/-- FAULT and CODE are sticky: no step but reset clears or changes them (60_exceptions.md R401, R411). -/
def Obligations.FaultIsStickyUntilReset : Prop :=
  ∀ s t : State, step s = .next t → NextMoveIsNotReset s → s.fault = true → s.code ≠ .none →
    t.fault = true ∧ t.code = s.code

/-- A halted block: with FAULT set and no command in flight, no step but reset issues a command or changes R, RJ,
a context or a VALID bit (60_exceptions.md R410). -/
def Obligations.HaltedUntilReset : Prop :=
  ∀ s t : State, step s = .next t → NextMoveIsNotReset s → s.fault = true → s.busy = false →
    t.busy = false ∧ t.pending = s.pending ∧ t.fault = true ∧ t.code = s.code ∧ t.r = s.r ∧ t.rj = s.rj
      ∧ SameContexts s t ∧ SameValid s t

/-! ### The port -/

/-- A write of CMD: no effect while FAULT, a hazard while BUSY, otherwise PENDING and BUSY and nothing else
(41_bitgen.md R130). -/
def Obligations.CommandWriteIssues : Prop :=
  portReg 0x0000 = .cmd
    ∧ ∀ (s : State) (v : Word32),
      (s.fault = true → writePort .cmd v s = s)
        ∧ (s.fault = false → s.busy = false → writePort .cmd v s = { s with pending := v, busy := true })
        ∧ (s.fault = false → s.busy = true → writePort .cmd v s
            = { s with fault := true, code := if s.code = .none then .hazard else s.code })

/-- A write while a command is in flight: dropped, with HAZARD, for CMD, LEN, FLAGS, A, B and BUF; ignored for the
others (70_reset_and_hazards.md R504). The premise on CODE is part of the invariant `Inv`. -/
def Obligations.WriteWhileBusyIsHazard : Prop :=
  ∀ (s : State) (off : Nat) (v : Word32), s.busy = true → (s.fault = true → s.code ≠ .none) →
    off % 4 = 0 → off < 0x2000 →
    ((off = 0 ∨ (0x0008 ≤ off ∧ off < 0x0030) ∨ (0x1000 ≤ off ∧ off < 0x19C4)) →
      writePort (portReg off) v s
        = { s with fault := true, code := if s.code = .none then .hazard else s.code })
    ∧ (¬ (off = 0 ∨ (0x0008 ≤ off ∧ off < 0x0030) ∨ (0x1000 ≤ off ∧ off < 0x19C4)) →
      writePort (portReg off) v s = s)

/-- Reads. While a command is in flight LEN, FLAGS, R and BUF read as any value: a free value of its own number
(log 4). STATUS, A and B read exactly, and CMD and reserved offsets as 0, whether a command is in flight or
not. Once BUSY is 0, LEN, FLAGS and R read as they stand, and BUF as MemRead gives it: its unwritten bytes
are draws (log 3) (70_reset_and_hazards.md R505; 20_memory.md R51, R61). -/
def Obligations.ReadWhileBusy : Prop :=
  ∀ (s : State) (off : Nat), off % 4 = 0 → off < 0x2000 →
    (s.busy = true →
      (off = 0x0008 ∨ off = 0x000C ∨ (0x0030 ≤ off ∧ off < 0x0040) ∨ (0x1000 ≤ off ∧ off < 0x19C4)) →
      readPort (portReg off) s = (Config.busyRead s.draws, { s with draws := s.draws + 1 }))
    ∧ (off = 0x0004 → readPort (portReg off) s = (statusWord s, s))
    ∧ (0x0010 ≤ off ∧ off < 0x0020 → readPort (portReg off) s = (portWord s.a ((off - 0x0010) / 4), s))
    ∧ (0x0020 ≤ off ∧ off < 0x0030 → readPort (portReg off) s = (portWord s.b ((off - 0x0020) / 4), s))
    ∧ (off = 0x0000 ∨ (0x0040 ≤ off ∧ off < 0x1000) ∨ 0x19C4 ≤ off → readPort (portReg off) s = (0, s))
    ∧ (s.busy = false →
      (off = 0x0008 → readPort (portReg off) s = (BitVec.ofNat 32 s.len.toNat, s))
      ∧ (off = 0x000C → readPort (portReg off) s = (BitVec.ofNat 32 s.c.toNat, s))
      ∧ (0x0030 ≤ off ∧ off < 0x0040 → readPort (portReg off) s = (portWord s.r ((off - 0x0030) / 4), s))
      ∧ (0x1000 ≤ off ∧ off < 0x19C4 → readPort (portReg off) s
          = (BitVec.ofNat 32 (leValue (memRead (off - 0x1000) 4 s).1), (memRead (off - 0x1000) 4 s).2)))

/-- A word written to A, B or BUF while idle is read back, and every other word and byte is as before
(20_memory.md R51 to R53, R61). -/
def Obligations.PortWriteThenRead : Prop :=
  ∀ (s : State) (v : Word32), s.busy = false →
    (∀ k, k < 4 →
      let t := writePort (portReg (0x0010 + 4 * k)) v s
      readPort (portReg (0x0010 + 4 * k)) t = (v, t) ∧ t = { s with a := t.a }
        ∧ ∀ j, j < 4 → j ≠ k → portWord t.a j = portWord s.a j)
    ∧ (∀ k, k < 4 →
      let t := writePort (portReg (0x0020 + 4 * k)) v s
      readPort (portReg (0x0020 + 4 * k)) t = (v, t) ∧ t = { s with b := t.b }
        ∧ ∀ j, j < 4 → j ≠ k → portWord t.b j = portWord s.b j)
    ∧ ∀ k, k < 625 →
      let t := writePort (portReg (0x1000 + 4 * k)) v s
      readPort (portReg (0x1000 + 4 * k)) t = (v, t) ∧ t = { s with buf := t.buf }
        ∧ ∀ x, x < 4 * k ∨ 4 * k + 4 ≤ x → Memory.byte? t.buf x = Memory.byte? s.buf x

/-- Reserved offsets read 0 and ignore writes, CMD reads 0, STATUS and R ignore writes, and the reserved bits of
LEN and FLAGS read 0 and ignore writes (20_memory.md R56). -/
def Obligations.ReservedAndReadOnlyOffsets : Prop :=
  ∀ (s : State) (off : Nat) (v : Word32), off % 4 = 0 → off < 0x2000 →
    ((0x0040 ≤ off ∧ off < 0x1000) ∨ 0x19C4 ≤ off →
      readPort (portReg off) s = (0, s) ∧ writePort (portReg off) v s = s)
    ∧ (off = 0x0000 → readPort (portReg off) s = (0, s))
    ∧ (off = 0x0004 ∨ (0x0030 ≤ off ∧ off < 0x0040) → writePort (portReg off) v s = s)
    ∧ (off = 0x0008 → s.busy = false →
      writePort (portReg off) v s = { s with len := BitVec.ofNat 16 (v.toNat % 2 ^ 16) }
        ∧ readPort (portReg off) s = (BitVec.ofNat 32 s.len.toNat, s))
    ∧ (off = 0x000C → s.busy = false →
      writePort (portReg off) v s = { s with c := decide (v.toNat % 2 = 1) }
        ∧ readPort (portReg off) s = (BitVec.ofNat 32 s.c.toNat, s))

/-- No read has a side effect (but on the model's count of free values), and a write other than to CMD may be
repeated with the same result (20_memory.md R57). -/
def Obligations.OnlyCommandWritesHaveSideEffects : Prop :=
  (∀ (s : State) (off : Nat),
      (readPort (portReg off) s).2 = { s with draws := (readPort (portReg off) s).2.draws })
    ∧ ∀ (s : State) (off : Nat) (v : Word32), off ≠ 0 →
        writePort (portReg off) v (writePort (portReg off) v s) = writePort (portReg off) v s

/-- Every field of STATUS (10_state.md R27) with the code numbers (60_exceptions.md R400). -/
def Obligations.StatusWordFields : Prop :=
  ∀ s : State,
    (statusWord s).getLsbD 0 = s.busy ∧ (statusWord s).getLsbD 1 = s.fault ∧ (statusWord s).getLsbD 2 = s.rj
      ∧ (statusWord s).getLsbD 3 = false
      ∧ (statusWord s).toNat / 16 % 16 = (match s.code with
          | .none => 0 | .illegal => 1 | .precond => 2 | .hazard => 3 | .noseed => 4 | .entropy => 5)
      ∧ (statusWord s).getLsbD 8 = s.validMt32 ∧ (statusWord s).getLsbD 9 = s.validMt64
      ∧ (statusWord s).getLsbD 10 = s.validPcg32 ∧ (statusWord s).getLsbD 11 = s.validPcg64
      ∧ (statusWord s).toNat < 4096

/-- The pseudo-instructions (30_encoding.md R88). With no command in flight: `wr A, v` and `wr B, v` for every
expression `v`, `clc`, `sec`, and `rd R -> h` for every `h` and every four different variables for the port
words. In every state: `wait`, at the place `here`, leaves the status in its variable and stands again at `here`
exactly while BUSY is 1; `chkfault` goes to `faulted` exactly if FAULT is 1; `issue m` is the CMD write of `m`'s
word. And `exec m`, at the place `here` of the program, from an idle block without a fault and with no turns left
(log 2), is four steps: the write, the command, the poll and the branch past it. -/
def Obligations.PseudoInstructionsExpand : Prop :=
  (∀ (s : State) (v : HostExpr), s.busy = false →
    (asmWrA v).foldl (fun s st => hostStmtStep st s) s
        = { s with a := BitVec.ofNat 128 (evalHostExpr s v), hostAt := s.hostAt + 4 }
      ∧ (asmWrB v).foldl (fun s st => hostStmtStep st s) s
        = { s with b := BitVec.ofNat 128 (evalHostExpr s v), hostAt := s.hostAt + 4 }
      ∧ hostStmtStep asmClc s = { s with c := false, hostAt := s.hostAt + 1 }
      ∧ hostStmtStep asmSec s = { s with c := true, hostAt := s.hostAt + 1 })
  ∧ (∀ (s : State) (h h0 h1 h2 h3 : Nat), s.busy = false → [h0, h1, h2, h3].Nodup →
    let t := (asmRdR h h0 h1 h2 h3).foldl (fun s st => hostStmtStep st s) s
    hostVar t h = s.r.toNat ∧ t = { s with hostVars := t.hostVars, hostAt := s.hostAt + 5 }
      ∧ ∀ x, x ∉ [h, h0, h1, h2, h3] → hostVar t x = hostVar s x)
  ∧ (∀ (s : State) (here x : Nat),
    let t := (asmWait here x).foldl (fun s st => hostStmtStep st s) s
    hostVar t x = (statusWord s).toNat ∧ (∀ y, y ≠ x → hostVar t y = hostVar s y)
      ∧ t = { s with hostVars := t.hostVars, hostAt := if s.busy then here else s.hostAt + 2 })
  ∧ (∀ (s : State) (x faulted : Nat),
    let t := (asmChkfault x faulted).foldl (fun s st => hostStmtStep st s) s
    hostVar t x = (statusWord s).toNat ∧ (∀ y, y ≠ x → hostVar t y = hostVar s y)
      ∧ t = { s with hostVars := t.hostVars, hostAt := if s.fault then faulted else s.hostAt + 2 })
  ∧ (∀ (s : State) (m : Instr),
    hostStmtStep (asmIssue m) s
      = { writePort .cmd (encode m) s with hostAt := s.hostAt + 1 })
  ∧ ∀ (s : State) (m : Instr) (here x : Nat), s.busy = false → s.fault = false → s.turns = [] →
    s.hostAt = here → (s.hostProg.drop here).take 3 = asmExec m here x →
    ∃ u t, exec m { s with pending := encode m, busy := true, hostAt := here + 1 } = .next u
      ∧ Host.Core.run core 4 s = .next t
      ∧ hostVar t x = (statusWord u).toNat ∧ (∀ y, y ≠ x → hostVar t y = hostVar s y)
      ∧ t = { u with hostVars := t.hostVars, hostAt := here + 3 }

/-! ### Reset and the invariant -/

/-- After reset A, B, R, C, LEN, PENDING and STATUS are 0 and no byte of BUF holds a value (10_state.md R39). The
contents of the contexts are the model's choice (log 9) and are not stated. -/
def Obligations.ResetValues : Prop :=
  State.reset.a = 0 ∧ State.reset.b = 0 ∧ State.reset.r = 0 ∧ State.reset.c = false ∧ State.reset.len = 0
    ∧ State.reset.pending = 0 ∧ statusWord State.reset = 0
    ∧ ∀ x, Memory.byte? State.reset.buf x = none

/-- The `reset` statement in any state, a command in flight or a fault included: A, B, R, C, LEN, PENDING and
STATUS are 0, every BUF byte is unwritten, and the host goes on (70_reset_and_hazards.md R500). -/
def Obligations.ResetFromAnyState : Prop :=
  ∀ s : State,
    let t := hostStmtStep .reset s
    t.a = 0 ∧ t.b = 0 ∧ t.r = 0 ∧ t.c = false ∧ t.len = 0 ∧ t.pending = 0 ∧ statusWord t = 0
      ∧ (∀ x, Memory.byte? t.buf x = none)
      ∧ t.draws = s.draws ∧ t.hostProg = s.hostProg ∧ t.hostAt = s.hostAt + 1 ∧ t.hostVars = s.hostVars
      ∧ t.turns = s.turns

/-- The invariant holds at reset (the increments' oddness there is the model's choice: log 9). -/
def Obligations.InvariantAtReset : Prop := Inv State.reset

/-- The invariant of every reachable state is kept by every step: BUF stays in canonical form, the cursors in range,
the increments odd, and FAULT set exactly when a code is recorded (10_state.md R34). -/
def Obligations.StepKeepsInvariant : Prop :=
  ∀ s t : State, Inv s → step s = .next t → Inv t

/-! ### BUF -/

/-- MemWrite of an `n`-byte value, then MemRead of it: the value modulo 2^(8n), no free value taken, every other
byte as before (20_memory.md R59). -/
def Obligations.MemWriteThenMemRead : Prop :=
  ∀ (s : State) (addr n v : Nat),
    let t := memWrite addr (leBytes n v) s
    leValue (memRead addr n t).1 = v % 2 ^ (8 * n) ∧ (memRead addr n t).2 = t
      ∧ t = { s with buf := t.buf }
      ∧ ∀ x, x < addr ∨ addr + n ≤ x → Memory.byte? t.buf x = Memory.byte? s.buf x

/-- MemRead gives each written byte as it stands and, for each unwritten one, a free value of its own number, so that
each read of it is independent (10_state.md R40, 20_memory.md R59). -/
def Obligations.UnwrittenBytesAreDraws : Prop :=
  ∀ (s : State) (addr n : Nat), ∃ number : Nat → Nat,
    (∀ i j, i < n → j < n → Memory.byte? s.buf (addr + i) = none → Memory.byte? s.buf (addr + j) = none →
      number i = number j → i = j)
    ∧ ∀ i, i < n →
      (∀ x, Memory.byte? s.buf (addr + i) = some x → (memRead addr n s).1[i]? = some x)
      ∧ (Memory.byte? s.buf (addr + i) = none →
        (memRead addr n s).1[i]? = some (Config.unwrittenByte (number i))
          ∧ s.draws ≤ number i ∧ number i < (memRead addr n s).2.draws)

/-! ### Mersenne Twister -/

/-- The twist of both engines: each new word from the old words and, where the loop has passed them, the new ones
(42_mt.md R202 with the constants of R200 and R201). -/
def Obligations.TwistRecurrence : Prop :=
  (∀ (mt : Vector Word32 624) (i : Nat), i < 624 →
    let new := twist mt32Const mt
    let y := (mtWord mt i &&& 0x80000000)
      ||| ((if i < 623 then mtWord mt (i + 1) else mtWord new 0) &&& 0x7FFFFFFF)
    mtWord new i = (if i < 227 then mtWord mt (i + 397) else mtWord new (i - 227))
      ^^^ ((y >>> 1) ^^^ (if y.getLsbD 0 then 0x9908B0DF else 0)))
  ∧ ∀ (mt : Vector Word64 312) (i : Nat), i < 312 →
    let new := twist mt64Const mt
    let y := (mtWord mt i &&& 0xFFFFFFFF80000000)
      ||| ((if i < 311 then mtWord mt (i + 1) else mtWord new 0) &&& 0x000000007FFFFFFF)
    mtWord new i = (if i < 156 then mtWord mt (i + 156) else mtWord new (i - 156))
      ^^^ ((y >>> 1) ^^^ (if y.getLsbD 0 then 0xB5026F5AA96619E9 else 0))

/-- `mt32.seed`: word 0 is the seed, each further word follows the recurrence, the cursor is 624, nothing else
changes (42_mt.md R207, R220). -/
def Obligations.Mt32SeedResult : Prop :=
  decode 0x00000010 = .command .mt32Seed
    ∧ ∀ s : State, ∃ t, exec .mt32Seed s = .next t
      ∧ t.mt32.w.val = 624
      ∧ (mtWord t.mt32.mt 0).toNat = s.a.toNat % 2 ^ 32
      ∧ (∀ i, 1 ≤ i → i < 624 → (mtWord t.mt32.mt i).toNat
          = (1812433253 * ((mtWord t.mt32.mt (i - 1)).toNat ^^^ (mtWord t.mt32.mt (i - 1)).toNat / 2 ^ 30) + i)
            % 2 ^ 32)
      ∧ t = { s with mt32 := t.mt32, validMt32 := true, rj := false, busy := false }

/-- `mt64.seed`: word 0 is the seed, each further word follows the recurrence, the cursor is 312, nothing else
changes (42_mt.md R208, R240). -/
def Obligations.Mt64SeedResult : Prop :=
  decode 0x00000020 = .command .mt64Seed
    ∧ ∀ s : State, ∃ t, exec .mt64Seed s = .next t
      ∧ t.mt64.w.val = 312
      ∧ (mtWord t.mt64.mt 0).toNat = s.a.toNat % 2 ^ 64
      ∧ (∀ i, 1 ≤ i → i < 312 → (mtWord t.mt64.mt i).toNat
          = (6364136223846793005
              * ((mtWord t.mt64.mt (i - 1)).toNat ^^^ (mtWord t.mt64.mt (i - 1)).toNat / 2 ^ 62) + i)
            % 2 ^ 64)
      ∧ t = { s with mt64 := t.mt64, validMt64 := true, rj := false, busy := false }

/-- `mt32.seeda` and `mt64.seeda` on an admitted key length: the key is that many little-endian words from the start of
BUF, the context is array seeding of it, with the top word in word 0 and the cursor N, and nothing else
changes but the count of free values, which goes on by the key's unwritten bytes (log 3) (42_mt.md R221,
R241). And what array seeding is: the start, both passes and how often each runs, with R209's and R210's
numbers (R209, R210). -/
def Obligations.SeedaResults : Prop :=
  (∀ s : State, 1 ≤ s.a.toNat → s.a.toNat ≤ 625 → ∃ (key : List Word32) (t : State),
      exec .mt32Seeda s = .next t
      ∧ key.length = s.a.toNat
      ∧ (∀ i, i < s.a.toNat →
          (key.getD i 0).toNat = leValue (((memRead 0 (4 * s.a.toNat) s).1.drop (4 * i)).take 4))
      ∧ t.mt32 = initByArray32 key
      ∧ mtWord t.mt32.mt 0 = 0x80000000 ∧ t.mt32.w.val = 624
      ∧ t = { s with mt32 := t.mt32, validMt32 := true, rj := false, busy := false,
                     draws := (memRead 0 (4 * s.a.toNat) s).2.draws })
    ∧ (∀ s : State, 1 ≤ s.a.toNat → s.a.toNat ≤ 312 → ∃ (key : List Word64) (t : State),
      exec .mt64Seeda s = .next t
      ∧ key.length = s.a.toNat
      ∧ (∀ i, i < s.a.toNat →
          (key.getD i 0).toNat = leValue (((memRead 0 (8 * s.a.toNat) s).1.drop (8 * i)).take 8))
      ∧ t.mt64 = initByArray64 key
      ∧ mtWord t.mt64.mt 0 = 0x8000000000000000 ∧ t.mt64.w.val = 312
      ∧ t = { s with mt64 := t.mt64, validMt64 := true, rj := false, busy := false,
                     draws := (memRead 0 (8 * s.a.toNat) s).2.draws })
    ∧ ArraySeeding (init32 19650218).mt (seedPass1 mt32Const) (seedPass2 mt32Const)
        30 1664525 1566083941 0x80000000 initByArray32
    ∧ ArraySeeding (init64 19650218).mt (seedPass1 mt64Const) (seedPass2 mt64Const)
        62 3935559000370003845 2862933555777941757 0x8000000000000000 initByArray64

/-- The four SEEDE commands: an entropy failure raises ENTROPY and writes nothing else; any other answer is the context
(its increment odd), which then holds a value (41_bitgen.md R142). Both cases, for every free value. That the
failure and the answer are free values at one number, and that the model's count of them goes on by one, is
the model's choice: log 5, log 28. -/
def Obligations.SeedeResults : Prop :=
  ∀ s : State,
    (∃ t, exec .mt32Seede s = .next t ∧ t = if Config.entropyFails s.draws
      then { s with fault := true, code := if s.code = .none then .entropy else s.code, rj := false, busy := false,
                    draws := s.draws + 1 }
      else { s with mt32 := Config.entropyMt32 s.draws, validMt32 := true, rj := false, busy := false,
                    draws := s.draws + 1 })
    ∧ (∃ t, exec .mt64Seede s = .next t ∧ t = if Config.entropyFails s.draws
      then { s with fault := true, code := if s.code = .none then .entropy else s.code, rj := false, busy := false,
                    draws := s.draws + 1 }
      else { s with mt64 := Config.entropyMt64 s.draws, validMt64 := true, rj := false, busy := false,
                    draws := s.draws + 1 })
    ∧ (∃ t, exec .pcg32Seede s = .next t ∧ if Config.entropyFails s.draws
      then t = { s with fault := true, code := if s.code = .none then .entropy else s.code, rj := false,
                        busy := false, draws := s.draws + 1 }
      else t.pcg32.inc.getLsbD 0 = true ∧ t.pcg32.state = (Config.entropyPcg32 s.draws).state
        ∧ t = { s with pcg32 := t.pcg32, validPcg32 := true, rj := false, busy := false,
                       draws := s.draws + 1 })
    ∧ (∃ t, exec .pcg64Seede s = .next t ∧ if Config.entropyFails s.draws
      then t = { s with fault := true, code := if s.code = .none then .entropy else s.code, rj := false,
                        busy := false, draws := s.draws + 1 }
      else t.pcg64.inc.getLsbD 0 = true ∧ t.pcg64.state = (Config.entropyPcg64 s.draws).state
        ∧ t = { s with pcg64 := t.pcg64, validPcg64 := true, rj := false, busy := false,
                       draws := s.draws + 1 })

/-- The native draws of both Mersenne Twisters: below N the word at the cursor, tempered, and the cursor one on; at N
the twist first (42_mt.md R205, R206). And the tempering, bit by bit, with R203's and R204's shifts and masks. -/
def Obligations.MtNativeDraws : Prop :=
  (∀ y : Word32, TemperedBits 11 0xFFFFFFFF 7 0x9D2C5680 15 0xEFC60000 18 y (temper32 y))
    ∧ (∀ y : Word64, TemperedBits 29 0x5555555555555555 17 0x71D67FFFEDA60000 37 0xFFF7EEE000000000 43 y
        (temper64 y))
    ∧ (∀ c : Mt32,
      (c.w.val < 624 → (genMt32 c).1 = temper32 (mtWord c.mt c.w.val) ∧ (genMt32 c).2.mt = c.mt
        ∧ (genMt32 c).2.w.val = c.w.val + 1)
      ∧ (c.w.val = 624 → (genMt32 c).1 = temper32 (mtWord (twist mt32Const c.mt) 0)
        ∧ (genMt32 c).2.mt = twist mt32Const c.mt ∧ (genMt32 c).2.w.val = 1))
    ∧ ∀ c : Mt64,
      (c.w.val < 312 → (genMt64 c).1 = temper64 (mtWord c.mt c.w.val) ∧ (genMt64 c).2.mt = c.mt
        ∧ (genMt64 c).2.w.val = c.w.val + 1)
      ∧ (c.w.val = 312 → (genMt64 c).1 = temper64 (mtWord (twist mt64Const c.mt) 0)
        ∧ (genMt64 c).2.mt = twist mt64Const c.mt ∧ (genMt64 c).2.w.val = 1)

/-- `mt32.jump` with a count that is not negative: 0 changes nothing of the context; a count `k ≥ 1` leaves a context
whose output stream is the old one after `k * 2^128` words; nothing else changes (42_mt.md R214, R227). -/
def Obligations.Mt32JumpResult : Prop :=
  decode 0x00000017 = .command .mt32Jump
    ∧ ∀ s : State, s.validMt32 = true → s.a.toNat % 2 ^ 64 < 2 ^ 63 → ∃ t, exec .mt32Jump s = .next t
      ∧ t = { s with mt32 := t.mt32, rj := false, busy := false }
      ∧ (s.a.toNat % 2 ^ 64 = 0 → t.mt32 = s.mt32)
      ∧ (1 ≤ s.a.toNat % 2 ^ 64 → ∀ n,
          outputStream genMt32 t.mt32 n = outputStream genMt32 s.mt32 (s.a.toNat % 2 ^ 64 * 2 ^ 128 + n))

/-- Jumps add up, and commute with draws, up to the output stream (42_mt.md R227). -/
def Obligations.JumpsComposeAndCommute : Prop :=
  (∀ (s s1 s2 s3 : State) (x y : Word128), s.validMt32 = true →
      s.a.toNat % 2 ^ 64 + x.toNat % 2 ^ 64 < 2 ^ 63 → y.toNat % 2 ^ 64 = s.a.toNat % 2 ^ 64 + x.toNat % 2 ^ 64 →
      exec .mt32Jump s = .next s1 → exec .mt32Jump { s1 with a := x } = .next s2 →
      exec .mt32Jump { s with a := y } = .next s3 →
      OutputEquivalent genMt32 s2.mt32 s3.mt32)
    ∧ ∀ s d dj j jd : State, s.validMt32 = true → s.a.toNat % 2 ^ 64 < 2 ^ 63 →
      exec .mt32Next32 s = .next d → exec .mt32Jump d = .next dj →
      exec .mt32Jump s = .next j → exec .mt32Next32 j = .next jd →
      OutputEquivalent genMt32 dj.mt32 jd.mt32

/-- A context with cursor 624 outputs the tempered successive new words of the recurrence `T` on its window
(42_mt.md R216). -/
def Obligations.TwistIsWindowRecurrence : Prop :=
  ∀ (v : Vector Word32 624) (n : Nat),
    outputStream genMt32 ⟨v, Fin.last 624⟩ n = temper32 (mtWord (windowAfter (n + 1) v) 623)

/-! ### Permuted Congruential Generators -/

/-- The native draws of both PCGs: the output of the state before the step, bit by bit, and the step
(43_pcg.md R301, R303 to R306). -/
def Obligations.PcgNativeDraws : Prop :=
  (∀ c : Pcg32,
      (genPcg32 c).2.inc = c.inc
      ∧ (genPcg32 c).2.state.toNat = (c.state.toNat * 6364136223846793005 + c.inc.toNat) % 2 ^ 64
      ∧ ∀ i, i < 32 → (genPcg32 c).1.getLsbD i
          = (((c.state >>> 18) ^^^ c.state) >>> 27).getLsbD ((i + c.state.toNat / 2 ^ 59) % 32))
    ∧ ∀ c : Pcg64,
      (genPcg64 c).2.inc = c.inc
      ∧ (genPcg64 c).2.state.toNat
          = (c.state.toNat * 0x2360ED051FC65DA44385DF649FCCF645 + c.inc.toNat) % 2 ^ 128
      ∧ ∀ i, i < 64 → (genPcg64 c).1.getLsbD i
          = (c.state.getLsbD (64 + (i + c.state.toNat / 2 ^ 122) % 64)
            ^^ c.state.getLsbD ((i + c.state.toNat / 2 ^ 122) % 64))

/-- `pcg32.seed` and `pcg64.seed`: the increment is the sequence word doubled plus 1, and the state is two steps
around the addition of the initial state, all modulo the width; nothing else changes (43_pcg.md R302, R320,
R340). -/
def Obligations.PcgSeedResults : Prop :=
  decode 0x00000030 = .command .pcg32Seed ∧ decode 0x00000040 = .command .pcg64Seed
    ∧ (∀ s : State, ∃ t, exec .pcg32Seed s = .next t
      ∧ t.pcg32.inc.toNat = (2 * s.b.toNat + 1) % 2 ^ 64
      ∧ t.pcg32.state.toNat
          = ((t.pcg32.inc.toNat + s.a.toNat) * 6364136223846793005 + t.pcg32.inc.toNat) % 2 ^ 64
      ∧ t = { s with pcg32 := t.pcg32, validPcg32 := true, rj := false, busy := false })
    ∧ ∀ s : State, ∃ t, exec .pcg64Seed s = .next t
      ∧ t.pcg64.inc.toNat = (2 * s.b.toNat + 1) % 2 ^ 128
      ∧ t.pcg64.state.toNat
          = ((t.pcg64.inc.toNat + s.a.toNat) * 0x2360ED051FC65DA44385DF649FCCF645 + t.pcg64.inc.toNat) % 2 ^ 128
      ∧ t = { s with pcg64 := t.pcg64, validPcg64 := true, rj := false, busy := false }

/-- `pcg32.adv` and `pcg64.adv`: the context after as many LCG steps as the count says; nothing else
changes (43_pcg.md R307, R326, R346). -/
def Obligations.AdvanceIsRepeatedStep : Prop :=
  decode 0x00000037 = .command .pcg32Adv ∧ decode 0x00000047 = .command .pcg64Adv
    ∧ (∀ s : State, s.validPcg32 = true → exec .pcg32Adv s = .next
        { s with pcg32 := repeatLoop (pcgStep mul64) (s.a.toNat % 2 ^ 64) s.pcg32, rj := false, busy := false })
    ∧ ∀ s : State, s.validPcg64 = true → exec .pcg64Adv s = .next
        { s with pcg64 := repeatLoop (pcgStep mul128) s.a.toNat s.pcg64, rj := false, busy := false }

/-- Advances compose, their counts wrapping at the width: so advancing by 2^W - 1 and then by 1 restores the state
(43_pcg.md R307). -/
def Obligations.AdvancesCompose : Prop :=
  (∀ (c : Pcg32) (n m : Word64), pcgAdvance mul64 (pcgAdvance mul64 c n) m = pcgAdvance mul64 c (n + m))
    ∧ ∀ (c : Pcg64) (n m : Word128),
        pcgAdvance mul128 (pcgAdvance mul128 c n) m = pcgAdvance mul128 c (n + m)

/-! ### The generator contract -/

/-- The draw commands of the 32-bit-native generators, on a context that holds a value: NEXT32 one word of the output
stream, NEXT64 two and NEXT128 four with the first highest, BIT the low bit of one; R is zero-extended, the
context goes on by as many draws, nothing else changes (41_bitgen.md R136 to R139; 42_mt.md R223 to R226;
43_pcg.md R322 to R325). -/
def Obligations.DrawsOfNarrowGenerators : Prop :=
  (∀ s : State, s.validMt32 = true →
    let w := fun n => (outputStream genMt32 s.mt32 n).toNat
    (∃ t, exec .mt32Next32 s = .next t ∧ t.r.toNat = w 0
      ∧ t = { s with r := t.r, mt32 := ctxAfter genMt32 1 s.mt32, rj := false, busy := false })
    ∧ (∃ t, exec .mt32Next64 s = .next t ∧ t.r.toNat = w 0 * 2 ^ 32 + w 1
      ∧ t = { s with r := t.r, mt32 := ctxAfter genMt32 2 s.mt32, rj := false, busy := false })
    ∧ (∃ t, exec .mt32Next128 s = .next t ∧ t.r.toNat = w 0 * 2 ^ 96 + w 1 * 2 ^ 64 + w 2 * 2 ^ 32 + w 3
      ∧ t = { s with r := t.r, mt32 := ctxAfter genMt32 4 s.mt32, rj := false, busy := false })
    ∧ (∃ t, exec .mt32Bit s = .next t ∧ t.r.toNat = w 0 % 2
      ∧ t = { s with r := t.r, mt32 := ctxAfter genMt32 1 s.mt32, rj := false, busy := false }))
  ∧ ∀ s : State, s.validPcg32 = true →
    let w := fun n => (outputStream genPcg32 s.pcg32 n).toNat
    (∃ t, exec .pcg32Next32 s = .next t ∧ t.r.toNat = w 0
      ∧ t = { s with r := t.r, pcg32 := ctxAfter genPcg32 1 s.pcg32, rj := false, busy := false })
    ∧ (∃ t, exec .pcg32Next64 s = .next t ∧ t.r.toNat = w 0 * 2 ^ 32 + w 1
      ∧ t = { s with r := t.r, pcg32 := ctxAfter genPcg32 2 s.pcg32, rj := false, busy := false })
    ∧ (∃ t, exec .pcg32Next128 s = .next t ∧ t.r.toNat = w 0 * 2 ^ 96 + w 1 * 2 ^ 64 + w 2 * 2 ^ 32 + w 3
      ∧ t = { s with r := t.r, pcg32 := ctxAfter genPcg32 4 s.pcg32, rj := false, busy := false })
    ∧ (∃ t, exec .pcg32Bit s = .next t ∧ t.r.toNat = w 0 % 2
      ∧ t = { s with r := t.r, pcg32 := ctxAfter genPcg32 1 s.pcg32, rj := false, busy := false })

/-- The draw commands of the 64-bit-native generators, on a context that holds a value: NEXT32 the half of one word
that NARROW_SEL names (both values of it), NEXT64 one word, NEXT128 two with the first highest, BIT the low
bit of one (41_bitgen.md R136 to R139; 42_mt.md R243 to R246; 43_pcg.md R342 to R345). -/
def Obligations.DrawsOfWideGenerators : Prop :=
  (∀ s : State, s.validMt64 = true →
    let w := fun n => (outputStream genMt64 s.mt64 n).toNat
    (∃ t, exec .mt64Next32 s = .next t
      ∧ t.r.toNat = (match Config.narrowSel with | .high => w 0 / 2 ^ 32 | .low => w 0 % 2 ^ 32)
      ∧ t = { s with r := t.r, mt64 := ctxAfter genMt64 1 s.mt64, rj := false, busy := false })
    ∧ (∃ t, exec .mt64Next64 s = .next t ∧ t.r.toNat = w 0
      ∧ t = { s with r := t.r, mt64 := ctxAfter genMt64 1 s.mt64, rj := false, busy := false })
    ∧ (∃ t, exec .mt64Next128 s = .next t ∧ t.r.toNat = w 0 * 2 ^ 64 + w 1
      ∧ t = { s with r := t.r, mt64 := ctxAfter genMt64 2 s.mt64, rj := false, busy := false })
    ∧ (∃ t, exec .mt64Bit s = .next t ∧ t.r.toNat = w 0 % 2
      ∧ t = { s with r := t.r, mt64 := ctxAfter genMt64 1 s.mt64, rj := false, busy := false }))
  ∧ ∀ s : State, s.validPcg64 = true →
    let w := fun n => (outputStream genPcg64 s.pcg64 n).toNat
    (∃ t, exec .pcg64Next32 s = .next t
      ∧ t.r.toNat = (match Config.narrowSel with | .high => w 0 / 2 ^ 32 | .low => w 0 % 2 ^ 32)
      ∧ t = { s with r := t.r, pcg64 := ctxAfter genPcg64 1 s.pcg64, rj := false, busy := false })
    ∧ (∃ t, exec .pcg64Next64 s = .next t ∧ t.r.toNat = w 0
      ∧ t = { s with r := t.r, pcg64 := ctxAfter genPcg64 1 s.pcg64, rj := false, busy := false })
    ∧ (∃ t, exec .pcg64Next128 s = .next t ∧ t.r.toNat = w 0 * 2 ^ 64 + w 1
      ∧ t = { s with r := t.r, pcg64 := ctxAfter genPcg64 2 s.pcg64, rj := false, busy := false })
    ∧ (∃ t, exec .pcg64Bit s = .next t ∧ t.r.toNat = w 0 % 2
      ∧ t = { s with r := t.r, pcg64 := ctxAfter genPcg64 1 s.pcg64, rj := false, busy := false })

/-- NEXT64 from a state equals two NEXT32 from it, the first in the high half, for MT32 and PCG32
(41_bitgen.md R137). -/
def Obligations.Next64IsTwoNext32 : Prop :=
  (∀ s t t1 t2 : State, s.validMt32 = true → exec .mt32Next64 s = .next t →
      exec .mt32Next32 s = .next t1 → exec .mt32Next32 t1 = .next t2 →
      t.r.toNat = t1.r.toNat * 2 ^ 32 + t2.r.toNat ∧ t = { t2 with r := t.r })
    ∧ ∀ s t t1 t2 : State, s.validPcg32 = true → exec .pcg32Next64 s = .next t →
      exec .pcg32Next32 s = .next t1 → exec .pcg32Next32 t1 = .next t2 →
      t.r.toNat = t1.r.toNat * 2 ^ 32 + t2.r.toNat ∧ t = { t2 with r := t.r }

/-- The four SAVE commands on a context that holds a value: every byte of the blob, LEN, every byte beyond the blob as
before, nothing else changed (41_bitgen.md R140; 42_mt.md R211, R212; 43_pcg.md R309, R310). -/
def Obligations.SaveResults : Prop :=
  (∀ s : State, s.validMt32 = true → ∃ t, exec .mt32Save s = .next t
      ∧ (∀ k, k < 2 → Memory.byte? t.buf k = some (BitVec.ofNat 8 (s.mt32.w.val / 256 ^ k)))
      ∧ (∀ i k, i < 624 → k < 4 →
          Memory.byte? t.buf (2 + 4 * i + k) = some (BitVec.ofNat 8 ((mtWord s.mt32.mt i).toNat / 256 ^ k)))
      ∧ (∀ x, 2498 ≤ x → Memory.byte? t.buf x = Memory.byte? s.buf x)
      ∧ t = { s with buf := t.buf, len := 2498, rj := false, busy := false })
    ∧ (∀ s : State, s.validMt64 = true → ∃ t, exec .mt64Save s = .next t
      ∧ (∀ k, k < 2 → Memory.byte? t.buf k = some (BitVec.ofNat 8 (s.mt64.w.val / 256 ^ k)))
      ∧ (∀ i k, i < 312 → k < 8 →
          Memory.byte? t.buf (2 + 8 * i + k) = some (BitVec.ofNat 8 ((mtWord s.mt64.mt i).toNat / 256 ^ k)))
      ∧ (∀ x, 2498 ≤ x → Memory.byte? t.buf x = Memory.byte? s.buf x)
      ∧ t = { s with buf := t.buf, len := 2498, rj := false, busy := false })
    ∧ (∀ s : State, s.validPcg32 = true → ∃ t, exec .pcg32Save s = .next t
      ∧ (∀ k, k < 8 → Memory.byte? t.buf k = some (BitVec.ofNat 8 (s.pcg32.state.toNat / 256 ^ k))
          ∧ Memory.byte? t.buf (8 + k) = some (BitVec.ofNat 8 (s.pcg32.inc.toNat / 256 ^ k)))
      ∧ (∀ x, 16 ≤ x → Memory.byte? t.buf x = Memory.byte? s.buf x)
      ∧ t = { s with buf := t.buf, len := 16, rj := false, busy := false })
    ∧ ∀ s : State, s.validPcg64 = true → ∃ t, exec .pcg64Save s = .next t
      ∧ (∀ k, k < 16 → Memory.byte? t.buf k = some (BitVec.ofNat 8 (s.pcg64.state.toNat / 256 ^ k))
          ∧ Memory.byte? t.buf (16 + k) = some (BitVec.ofNat 8 (s.pcg64.inc.toNat / 256 ^ k)))
      ∧ (∀ x, 32 ≤ x → Memory.byte? t.buf x = Memory.byte? s.buf x)
      ∧ t = { s with buf := t.buf, len := 32, rj := false, busy := false }

/-- The four LOAD commands on a blob of the right length, the cursor of an MT blob in range: the context is the
blob's, a PCG increment with its low bit forced to 1; the VALID bit is set; nothing else changes
(41_bitgen.md R141; 42_mt.md R229, R248; 43_pcg.md R311, R328, R348). -/
def Obligations.LoadAccepts : Prop :=
  (∀ s : State, s.len = 2498 → leValue ((memRead 0 2498 s).1.take 2) ≤ 624 → ∃ t, exec .mt32Load s = .next t
      ∧ t.mt32.w.val = leValue ((memRead 0 2498 s).1.take 2)
      ∧ (∀ i, i < 624 → (mtWord t.mt32.mt i).toNat = leValue (((memRead 0 2498 s).1.drop (2 + 4 * i)).take 4))
      ∧ t = { s with mt32 := t.mt32, validMt32 := true, rj := false, busy := false,
                     draws := (memRead 0 2498 s).2.draws })
    ∧ (∀ s : State, s.len = 2498 → leValue ((memRead 0 2498 s).1.take 2) ≤ 312 → ∃ t, exec .mt64Load s = .next t
      ∧ t.mt64.w.val = leValue ((memRead 0 2498 s).1.take 2)
      ∧ (∀ i, i < 312 → (mtWord t.mt64.mt i).toNat = leValue (((memRead 0 2498 s).1.drop (2 + 8 * i)).take 8))
      ∧ t = { s with mt64 := t.mt64, validMt64 := true, rj := false, busy := false,
                     draws := (memRead 0 2498 s).2.draws })
    ∧ (∀ s : State, s.len = 16 → ∃ t, exec .pcg32Load s = .next t
      ∧ t.pcg32.state.toNat = leValue ((memRead 0 16 s).1.take 8)
      ∧ t.pcg32.inc.toNat = 2 * (leValue (((memRead 0 16 s).1.drop 8).take 8) / 2) + 1
      ∧ t = { s with pcg32 := t.pcg32, validPcg32 := true, rj := false, busy := false,
                     draws := (memRead 0 16 s).2.draws })
    ∧ ∀ s : State, s.len = 32 → ∃ t, exec .pcg64Load s = .next t
      ∧ t.pcg64.state.toNat = leValue ((memRead 0 32 s).1.take 16)
      ∧ t.pcg64.inc.toNat = 2 * (leValue (((memRead 0 32 s).1.drop 16).take 16) / 2) + 1
      ∧ t = { s with pcg64 := t.pcg64, validPcg64 := true, rj := false, busy := false,
                     draws := (memRead 0 32 s).2.draws }

/-- A LOAD that rejects, on another LEN or a cursor above N, sets RJ and writes nothing else (41_bitgen.md R141;
42_mt.md R211, R212; 60_exceptions.md R407). Where it has read the blob, the model's count of free values goes
on by the unwritten bytes: log 21. -/
def Obligations.LoadRejects : Prop :=
  (∀ (i : Instr) (s : State), isLoad i = true → s.len.toNat ≠ blobLength (unitOf i) →
      exec i s = .next { s with rj := true, busy := false })
    ∧ (∀ s : State, s.len = 2498 → 624 < leValue ((memRead 0 2498 s).1.take 2) →
      exec .mt32Load s = .next { s with rj := true, busy := false, draws := (memRead 0 2498 s).2.draws })
    ∧ ∀ s : State, s.len = 2498 → 312 < leValue ((memRead 0 2498 s).1.take 2) →
      exec .mt64Load s = .next { s with rj := true, busy := false, draws := (memRead 0 2498 s).2.draws }

/-- Round trip: after SAVE, a LOAD in any later state with the same BUF and LEN restores the context exactly
(41_bitgen.md R143). The increments' oddness is part of the invariant `Inv`. -/
def Obligations.SaveLoadRoundTrip : Prop :=
  (∀ s t u : State, s.validMt32 = true → exec .mt32Save s = .next t → u.buf = t.buf → u.len = t.len →
      exec .mt32Load u = .next { u with mt32 := s.mt32, validMt32 := true, rj := false, busy := false })
    ∧ (∀ s t u : State, s.validMt64 = true → exec .mt64Save s = .next t → u.buf = t.buf → u.len = t.len →
      exec .mt64Load u = .next { u with mt64 := s.mt64, validMt64 := true, rj := false, busy := false })
    ∧ (∀ s t u : State, s.validPcg32 = true → s.pcg32.inc.getLsbD 0 = true → exec .pcg32Save s = .next t →
      u.buf = t.buf → u.len = t.len →
      exec .pcg32Load u = .next { u with pcg32 := s.pcg32, validPcg32 := true, rj := false, busy := false })
    ∧ ∀ s t u : State, s.validPcg64 = true → s.pcg64.inc.getLsbD 0 = true → exec .pcg64Save s = .next t →
      u.buf = t.buf → u.len = t.len →
      exec .pcg64Load u = .next { u with pcg64 := s.pcg64, validPcg64 := true, rj := false, busy := false }
end

