-- ==== Sys2Proof/Laws/Bits.lean ====
section
/-! SUPPORT. Byte order: bytes and values of each other, words and blobs of each other. -/

namespace Sys2Proof.Machine

@[simp] theorem length_leBytes (n v : Nat) : (leBytes n v).length = n := by
  induction n generalizing v with
  | zero => rfl
  | succ n ih => simp [leBytes, ih]

theorem leBytes_getElem (n v i : Nat) (h : i < n) :
    (leBytes n v)[i]? = some (BitVec.ofNat 8 (v / 256 ^ i)) := by
  induction n generalizing v i with
  | zero => omega
  | succ n ih =>
    cases i with
    | zero => simp [leBytes]
    | succ i => simp [leBytes, ih (v / 256) i (by omega), Nat.div_div_eq_div_mul, Nat.pow_succ']

theorem leValue_lt (bs : List Byte) : leValue bs < 256 ^ bs.length := by
  induction bs with
  | nil => simp [leValue]
  | cons b bs ih =>
    have hb := b.isLt
    simp only [leValue, List.length_cons, Nat.pow_succ]
    omega

theorem leValue_leBytes (n v : Nat) : leValue (leBytes n v) = v % 256 ^ n := by
  induction n generalizing v with
  | zero => simp [leBytes, leValue, Nat.mod_one]
  | succ n ih =>
    have h : v % 256 ^ (n + 1) = v % 256 + 256 * (v / 256 % 256 ^ n) := by
      rw [Nat.pow_succ', Nat.mod_mul]
    simp [leBytes, leValue, ih, h]

theorem leBytes_leValue (bs : List Byte) : leBytes bs.length (leValue bs) = bs := by
  induction bs with
  | nil => rfl
  | cons b bs ih =>
    have hb := b.isLt
    have h1 : (b.toNat + 256 * leValue bs) / 256 = leValue bs := by omega
    have h2 : BitVec.ofNat 8 (b.toNat + 256 * leValue bs) = b := by
      apply BitVec.eq_of_toNat_eq
      simp only [BitVec.toNat_ofNat]
      omega
    simp [leBytes, leValue, h1, h2, ih]

/-- A word list written and read back is itself. -/
theorem leWords_flatMap {W size : Nat} (hW : 256 ^ size = 2 ^ W) (xs : List (BitVec W)) (rest : List Byte) :
    leWords W size xs.length (xs.flatMap (fun x => leBytes size x.toNat) ++ rest) = xs := by
  induction xs with
  | nil => rfl
  | cons x xs ih =>
    have hx : BitVec.ofNat W (leValue (leBytes size x.toNat)) = x := by
      apply BitVec.eq_of_toNat_eq
      rw [leValue_leBytes, hW, Nat.mod_eq_of_lt x.isLt, BitVec.toNat_ofNat, Nat.mod_eq_of_lt x.isLt]
    simp only [List.flatMap_cons, List.length_cons, leWords, List.append_assoc]
    rw [List.take_left' (by simp), List.drop_left' (by simp), hx, ih]

theorem length_flatMap_leBytes {W : Nat} (size : Nat) (xs : List (BitVec W)) :
    (xs.flatMap fun x => leBytes size x.toNat).length = size * xs.length := by
  induction xs with
  | nil => simp
  | cons x xs ih => simp [List.flatMap_cons, ih, Nat.mul_succ, Nat.add_comm]

@[simp] theorem length_mtBlob {W N : Nat} (size : Nat) (c : MtCtx W N) :
    (mtBlob size c).length = 2 + size * N := by
  rw [mtBlob, List.length_append, length_flatMap_leBytes]
  simp

@[simp] theorem length_pcgBlob {W : Nat} (size : Nat) (c : PcgCtx W) :
    (pcgBlob size c).length = 2 * size := by
  simp [pcgBlob]; omega

/-- A Mersenne Twister blob holds its context (42_mt.md R211, R212). -/
theorem mtOfBlob_mtBlob {W N : Nat} (size : Nat) (hW : 256 ^ size = 2 ^ W) (hN : N < 65536) (c : MtCtx W N) :
    mtOfBlob size (mtBlob size c) = some c := by
  have hw : leValue ((mtBlob size c).take 2) = c.w.val := by
    rw [mtBlob, List.take_left' (by simp), leValue_leBytes]
    have := c.w.isLt
    omega
  have hm : leWords W size N ((mtBlob size c).drop 2) = c.mt.toList := by
    rw [mtBlob, List.drop_left' (by simp)]
    have h := leWords_flatMap hW c.mt.toList []
    simpa using h
  have hle : leValue ((mtBlob size c).take 2) ≤ N := by
    have := c.w.isLt
    omega
  rw [mtOfBlob, dif_pos hle]
  congr 1
  rcases c with ⟨mt, w⟩
  congr 1
  · apply Vector.toList_inj.1
    rw [← hm]
    rfl
  · exact Fin.ext hw

theorem ofNat_toNat_leBytes {W size : Nat} (hW : 256 ^ size = 2 ^ W) (x : BitVec W) :
    BitVec.ofNat W (leValue (leBytes size x.toNat)) = x := by
  rw [leValue_leBytes, hW, Nat.mod_eq_of_lt x.isLt, BitVec.ofNat_toNat, BitVec.setWidth_eq]

theorem or_one_eq_self {W : Nat} (x : BitVec W) (h : x.getLsbD 0 = true) : x ||| 1 = x := by
  apply BitVec.eq_of_getLsbD_eq
  intro i hi
  rcases Nat.eq_zero_or_pos i with rfl | hp
  · simp [h]
  · have h1 : ((1 : BitVec W).getLsbD i) = false := by
      simp [BitVec.getLsbD_one]
      omega
    rw [BitVec.getLsbD_or, h1, Bool.or_false]

/-- A PCG blob holds its context, when the increment is odd (43_pcg.md R309 to R311). -/
theorem pcgOfBlob_pcgBlob {W : Nat} (size : Nat) (hW : 256 ^ size = 2 ^ W) (c : PcgCtx W)
    (hodd : c.inc.getLsbD 0 = true) : pcgOfBlob W size (pcgBlob size c) = c := by
  rcases c with ⟨st, inc⟩
  rw [pcgOfBlob, pcgBlob, List.take_left' (by simp), List.drop_left' (by simp), ofNat_toNat_leBytes hW,
    List.take_of_length_le (by simp), ofNat_toNat_leBytes hW]
  congr 1
  exact or_one_eq_self inc hodd

end Sys2Proof.Machine
end

