-- ==== Sys2Proof/Laws/Buf.lean ====
section
/-! SUPPORT. BUF: what a write leaves at each offset, that every operation keeps the canonical form, and what a
read answers. -/

namespace Sys2Proof.Machine

/-! ### Reading after writing -/

theorem byte?_nil (x : Nat) : Memory.byte? [] x = none := rfl

theorem byte?_cons (a : Nat) (v : Byte) (m : Memory) (x : Nat) :
    Memory.byte? ((a, v) :: m) x = if x = a then some v else Memory.byte? m x := by
  rw [Memory.byte?, List.lookup_cons]
  by_cases h : x = a
  · simp [h]
  · have hb : (x == a) = false := by simp [h]
    rw [hb, if_neg h]
    rfl

theorem byte?_append (m m' : Memory) (x : Nat) :
    Memory.byte? (m ++ m') x = (Memory.byte? m x).or (Memory.byte? m' x) := by
  induction m with
  | nil => simp [byte?_nil]
  | cons cell m ih =>
    rcases cell with ⟨a, v⟩
    rw [List.cons_append, byte?_cons, byte?_cons, ih]
    split <;> simp

theorem byte?_filter (f : Nat → Bool) (m : Memory) (x : Nat) :
    Memory.byte? (m.filter fun cell => f cell.1) x = if f x then Memory.byte? m x else none := by
  induction m with
  | nil => simp [byte?_nil]
  | cons cell m ih =>
    rcases cell with ⟨a, v⟩
    by_cases ha : f a
    · rw [List.filter_cons_of_pos (by simpa using ha), byte?_cons, byte?_cons, ih]
      by_cases hx : x = a
      · simp [hx, ha]
      · simp [hx]
    · rw [List.filter_cons_of_neg (by simpa using ha), byte?_cons, ih]
      by_cases hx : x = a
      · simp [hx, ha]
      · simp [hx]

theorem byte?_cellsFrom (a : Nat) (bs : List Byte) (x : Nat) :
    Memory.byte? (cellsFrom a bs) x = if a ≤ x then bs[x - a]? else none := by
  induction bs generalizing a with
  | nil => simp [cellsFrom, byte?_nil]
  | cons b bs ih =>
    rw [cellsFrom, byte?_cons, ih]
    by_cases hx : x = a
    · simp [hx]
    · by_cases h : a ≤ x
      · have h1 : a + 1 ≤ x := by omega
        have h2 : x - a = (x - (a + 1)) + 1 := by omega
        simp [hx, h, h1, h2]
      · have h1 : ¬ a + 1 ≤ x := by omega
        simp [hx, h, h1]

/-- What a write leaves at each offset: its own bytes, and every other offset as it was. -/
theorem byte?_write (m : Memory) (a : Nat) (bs : List Byte) (x : Nat) :
    (m.write a bs).byte? x = if a ≤ x ∧ x < a + bs.length then bs[x - a]? else m.byte? x := by
  rw [Memory.write, byte?_append, byte?_append, Memory.below, Memory.from,
    byte?_filter (fun y => decide (y < a)), byte?_filter (fun y => decide (a + bs.length ≤ y)),
    byte?_cellsFrom]
  by_cases h1 : x < a
  · have h2 : ¬ a ≤ x := by omega
    have h3 : ¬ a + bs.length ≤ x := by omega
    simp [h1, h2, h3]
  · have h2 : a ≤ x := by omega
    by_cases h3 : x < a + bs.length
    · have h4 : ¬ a + bs.length ≤ x := by omega
      simp [h1, h2, h3, h4]
    · have h4 : a + bs.length ≤ x := by omega
      have h5 : bs.length ≤ x - a := by omega
      simp [h1, h2, h3, h4, h5]

theorem byte?_write_of_inside (m : Memory) (a : Nat) (bs : List Byte) (i : Nat) (h : i < bs.length) :
    (m.write a bs).byte? (a + i) = some bs[i] := by
  rw [byte?_write, if_pos ⟨by omega, by omega⟩, Nat.add_sub_cancel_left]
  simp [h]

theorem byte?_write_of_outside (m : Memory) (a : Nat) (bs : List Byte) (x : Nat)
    (h : x < a ∨ a + bs.length ≤ x) : (m.write a bs).byte? x = m.byte? x := by
  rw [byte?_write, if_neg (by omega)]

/-! ### The canonical form -/

theorem wfFrom_mono {lo lo' : Nat} (h : lo' ≤ lo) {m : Memory} (hm : Memory.wfFrom lo m = true) :
    Memory.wfFrom lo' m = true := by
  cases m with
  | nil => rfl
  | cons cell m =>
    simp only [Memory.wfFrom, Bool.and_eq_true, decide_eq_true_eq] at hm ⊢
    exact ⟨⟨by omega, hm.1.2⟩, hm.2⟩

/-- A list whose offsets stay below `mid`, then one from `mid` on. -/
theorem wfFrom_append {lo mid : Nat} {m m' : Memory} (hm : Memory.wfFrom lo m = true)
    (hlt : ∀ cell ∈ m, cell.1 < mid) (hlo : lo ≤ mid) (hm' : Memory.wfFrom mid m' = true) :
    Memory.wfFrom lo (m ++ m') = true := by
  induction m generalizing lo with
  | nil => exact wfFrom_mono hlo hm'
  | cons cell m ih =>
    simp only [List.cons_append, Memory.wfFrom, Bool.and_eq_true, decide_eq_true_eq] at hm ⊢
    refine ⟨hm.1, ih hm.2 (fun c hc => hlt c (by simp [hc])) ?_⟩
    have := hlt cell (by simp)
    omega

theorem wfFrom_filter (f : Host.Cell → Bool) {lo : Nat} {m : Memory} (hm : Memory.wfFrom lo m = true) :
    Memory.wfFrom lo (m.filter f) = true := by
  induction m generalizing lo with
  | nil => rfl
  | cons cell m ih =>
    simp only [Memory.wfFrom, Bool.and_eq_true, decide_eq_true_eq] at hm
    by_cases hf : f cell
    · rw [List.filter_cons_of_pos hf]
      simp only [Memory.wfFrom, Bool.and_eq_true, decide_eq_true_eq]
      exact ⟨hm.1, ih hm.2⟩
    · rw [List.filter_cons_of_neg hf]
      exact wfFrom_mono (by omega) (ih hm.2)

theorem wfFrom_from {lo : Nat} {m : Memory} (a : Nat) (hm : Memory.wfFrom lo m = true) :
    Memory.wfFrom a (m.from a) = true := by
  induction m generalizing lo with
  | nil => rfl
  | cons cell m ih =>
    have hm0 := hm
    simp only [Memory.wfFrom, Bool.and_eq_true, decide_eq_true_eq] at hm
    by_cases hf : a ≤ cell.1
    · have h1 : Memory.wfFrom cell.1 (cell :: m) = true := by
        simp only [Memory.wfFrom, Bool.and_eq_true, decide_eq_true_eq]
        exact ⟨⟨Nat.le_refl _, hm.1.2⟩, hm.2⟩
      exact wfFrom_filter _ (wfFrom_mono hf h1)
    · have h2 : Memory.from (cell :: m) a = Memory.from m a := by
        rw [Memory.from, List.filter_cons_of_neg (by simpa using hf)]
        rfl
      rw [h2]
      exact ih hm.2

theorem wfFrom_cellsFrom (a : Nat) (bs : List Byte) (h : a + bs.length ≤ bufSize) :
    Memory.wfFrom a (cellsFrom a bs) = true := by
  induction bs generalizing a with
  | nil => rfl
  | cons b bs ih =>
    simp only [List.length_cons] at h
    simp only [cellsFrom, Memory.wfFrom, Bool.and_eq_true, decide_eq_true_eq]
    exact ⟨⟨Nat.le_refl _, by omega⟩, ih (a + 1) (by omega)⟩

theorem lt_of_mem_cellsFrom {a : Nat} {bs : List Byte} {cell : Host.Cell} (h : cell ∈ cellsFrom a bs) :
    cell.1 < a + bs.length := by
  induction bs generalizing a with
  | nil => simp [cellsFrom] at h
  | cons b bs ih =>
    simp only [cellsFrom, List.mem_cons] at h
    rcases h with h | h
    · simp [h]
    · have := ih h
      simp only [List.length_cons]
      omega

/-- A write inside BUF keeps the canonical form. -/
theorem wf_write {m : Memory} (hm : m.wf = true) (a : Nat) (bs : List Byte) (h : a + bs.length ≤ bufSize) :
    (m.write a bs).wf = true := by
  rw [Memory.wf, Memory.write]
  refine wfFrom_append (mid := a + bs.length)
    (wfFrom_append (mid := a) (wfFrom_filter _ hm) ?_ (Nat.zero_le _) (wfFrom_cellsFrom a bs h))
    ?_ (Nat.zero_le _) (wfFrom_from _ hm)
  · intro cell hc
    have := (List.mem_filter.1 hc).2
    simpa using this
  · intro cell hc
    rcases List.mem_append.1 hc with hc | hc
    · have := (List.mem_filter.1 hc).2
      have h2 : cell.1 < a := by simpa using this
      omega
    · exact lt_of_mem_cellsFrom hc

/-- BUF after reset is in canonical form: nothing is listed. -/
theorem wf_reset : Memory.wf State.reset.buf = true := rfl

/-! ### Reading -/

theorem length_read (m : Memory) (n a d : Nat) : (m.read n a d).1.length = n := by
  induction n generalizing a d with
  | zero => rfl
  | succ n ih =>
    rw [Memory.read]
    split <;> simp [ih]

/-- Reading only advances the count of free values. -/
theorem le_read_snd (m : Memory) (n a d : Nat) : d ≤ (m.read n a d).2 := by
  induction n generalizing a d with
  | zero => exact Nat.le_refl _
  | succ n ih =>
    rw [Memory.read]
    split
    · exact ih _ _
    · exact Nat.le_of_succ_le (ih _ _)

/-- A written byte is read as it stands. -/
theorem read_getElem_of_written (m : Memory) (n a d i : Nat) (x : Byte) (hi : i < n)
    (hx : m.byte? (a + i) = some x) : (m.read n a d).1[i]? = some x := by
  induction n generalizing a d i with
  | zero => omega
  | succ n ih =>
    rw [Memory.read]
    cases i with
    | zero =>
      rw [Nat.add_zero] at hx
      simp [hx]
    | succ i =>
      have hx' : m.byte? (a + 1 + i) = some x := by rw [← hx]; congr 1; omega
      split
      · simpa using ih (a + 1) d i (by omega) hx'
      · simpa using ih (a + 1) (d + 1) i (by omega) hx'

/-- A read of bytes that are all written: those bytes, and no free value taken. -/
theorem read_of_written (m : Memory) (bs : List Byte) (a d : Nat)
    (h : ∀ i (hi : i < bs.length), m.byte? (a + i) = some bs[i]) :
    m.read bs.length a d = (bs, d) := by
  induction bs generalizing a with
  | nil => rfl
  | cons b bs ih =>
    have h0 : m.byte? a = some b := h 0 (by simp)
    have h1 := ih (a + 1) fun i hi => by
      have := h (i + 1) (by simpa using hi)
      rw [show a + 1 + i = a + (i + 1) by omega, this]
      simp
    rw [List.length_cons, Memory.read, h0, h1]

/-- What was just written is what a read of those offsets answers. -/
theorem read_write_self (m : Memory) (a d : Nat) (bs : List Byte) :
    (m.write a bs).read bs.length a d = (bs, d) :=
  read_of_written _ bs a d fun i hi => byte?_write_of_inside m a bs i hi

end Sys2Proof.Machine
end

