-- ==== Sys2Proof/Laws/State.lean ====
section
/-! SUPPORT. One lemma per field of State for each shared update: what the field holds after it. -/

namespace Sys2Proof.Machine

/-! ### complete -/

@[simp] theorem complete_a (s : State) : (complete s).a = s.a := rfl
@[simp] theorem complete_b (s : State) : (complete s).b = s.b := rfl
@[simp] theorem complete_r (s : State) : (complete s).r = s.r := rfl
@[simp] theorem complete_c (s : State) : (complete s).c = s.c := rfl
@[simp] theorem complete_len (s : State) : (complete s).len = s.len := rfl
@[simp] theorem complete_pending (s : State) : (complete s).pending = s.pending := rfl
@[simp] theorem complete_busy (s : State) : (complete s).busy = false := rfl
@[simp] theorem complete_fault (s : State) : (complete s).fault = s.fault := rfl
@[simp] theorem complete_rj (s : State) : (complete s).rj = false := rfl
@[simp] theorem complete_code (s : State) : (complete s).code = s.code := rfl
@[simp] theorem complete_validMt32 (s : State) : (complete s).validMt32 = s.validMt32 := rfl
@[simp] theorem complete_validMt64 (s : State) : (complete s).validMt64 = s.validMt64 := rfl
@[simp] theorem complete_validPcg32 (s : State) : (complete s).validPcg32 = s.validPcg32 := rfl
@[simp] theorem complete_validPcg64 (s : State) : (complete s).validPcg64 = s.validPcg64 := rfl
@[simp] theorem complete_buf (s : State) : (complete s).buf = s.buf := rfl
@[simp] theorem complete_mt32 (s : State) : (complete s).mt32 = s.mt32 := rfl
@[simp] theorem complete_mt64 (s : State) : (complete s).mt64 = s.mt64 := rfl
@[simp] theorem complete_pcg32 (s : State) : (complete s).pcg32 = s.pcg32 := rfl
@[simp] theorem complete_pcg64 (s : State) : (complete s).pcg64 = s.pcg64 := rfl
@[simp] theorem complete_draws (s : State) : (complete s).draws = s.draws := rfl
@[simp] theorem complete_hostProg (s : State) : (complete s).hostProg = s.hostProg := rfl
@[simp] theorem complete_hostAt (s : State) : (complete s).hostAt = s.hostAt := rfl
@[simp] theorem complete_hostVars (s : State) : (complete s).hostVars = s.hostVars := rfl
@[simp] theorem complete_turns (s : State) : (complete s).turns = s.turns := rfl

/-! ### completeRejected -/

@[simp] theorem completeRejected_a (s : State) : (completeRejected s).a = s.a := rfl
@[simp] theorem completeRejected_b (s : State) : (completeRejected s).b = s.b := rfl
@[simp] theorem completeRejected_r (s : State) : (completeRejected s).r = s.r := rfl
@[simp] theorem completeRejected_c (s : State) : (completeRejected s).c = s.c := rfl
@[simp] theorem completeRejected_len (s : State) : (completeRejected s).len = s.len := rfl
@[simp] theorem completeRejected_pending (s : State) : (completeRejected s).pending = s.pending := rfl
@[simp] theorem completeRejected_busy (s : State) : (completeRejected s).busy = false := rfl
@[simp] theorem completeRejected_fault (s : State) : (completeRejected s).fault = s.fault := rfl
@[simp] theorem completeRejected_rj (s : State) : (completeRejected s).rj = true := rfl
@[simp] theorem completeRejected_code (s : State) : (completeRejected s).code = s.code := rfl
@[simp] theorem completeRejected_validMt32 (s : State) : (completeRejected s).validMt32 = s.validMt32 := rfl
@[simp] theorem completeRejected_validMt64 (s : State) : (completeRejected s).validMt64 = s.validMt64 := rfl
@[simp] theorem completeRejected_validPcg32 (s : State) : (completeRejected s).validPcg32 = s.validPcg32 := rfl
@[simp] theorem completeRejected_validPcg64 (s : State) : (completeRejected s).validPcg64 = s.validPcg64 := rfl
@[simp] theorem completeRejected_buf (s : State) : (completeRejected s).buf = s.buf := rfl
@[simp] theorem completeRejected_mt32 (s : State) : (completeRejected s).mt32 = s.mt32 := rfl
@[simp] theorem completeRejected_mt64 (s : State) : (completeRejected s).mt64 = s.mt64 := rfl
@[simp] theorem completeRejected_pcg32 (s : State) : (completeRejected s).pcg32 = s.pcg32 := rfl
@[simp] theorem completeRejected_pcg64 (s : State) : (completeRejected s).pcg64 = s.pcg64 := rfl
@[simp] theorem completeRejected_draws (s : State) : (completeRejected s).draws = s.draws := rfl
@[simp] theorem completeRejected_hostProg (s : State) : (completeRejected s).hostProg = s.hostProg := rfl
@[simp] theorem completeRejected_hostAt (s : State) : (completeRejected s).hostAt = s.hostAt := rfl
@[simp] theorem completeRejected_hostVars (s : State) : (completeRejected s).hostVars = s.hostVars := rfl
@[simp] theorem completeRejected_turns (s : State) : (completeRejected s).turns = s.turns := rfl

/-! ### recordFault -/

@[simp] theorem recordFault_a (e : FaultCode) (s : State) : (recordFault e s).a = s.a := rfl
@[simp] theorem recordFault_b (e : FaultCode) (s : State) : (recordFault e s).b = s.b := rfl
@[simp] theorem recordFault_r (e : FaultCode) (s : State) : (recordFault e s).r = s.r := rfl
@[simp] theorem recordFault_c (e : FaultCode) (s : State) : (recordFault e s).c = s.c := rfl
@[simp] theorem recordFault_len (e : FaultCode) (s : State) : (recordFault e s).len = s.len := rfl
@[simp] theorem recordFault_pending (e : FaultCode) (s : State) : (recordFault e s).pending = s.pending := rfl
@[simp] theorem recordFault_busy (e : FaultCode) (s : State) : (recordFault e s).busy = s.busy := rfl
@[simp] theorem recordFault_fault (e : FaultCode) (s : State) : (recordFault e s).fault = true := rfl
@[simp] theorem recordFault_rj (e : FaultCode) (s : State) : (recordFault e s).rj = s.rj := rfl
@[simp] theorem recordFault_code (e : FaultCode) (s : State) : (recordFault e s).code = if s.code = .none then e else s.code := rfl
@[simp] theorem recordFault_validMt32 (e : FaultCode) (s : State) : (recordFault e s).validMt32 = s.validMt32 := rfl
@[simp] theorem recordFault_validMt64 (e : FaultCode) (s : State) : (recordFault e s).validMt64 = s.validMt64 := rfl
@[simp] theorem recordFault_validPcg32 (e : FaultCode) (s : State) : (recordFault e s).validPcg32 = s.validPcg32 := rfl
@[simp] theorem recordFault_validPcg64 (e : FaultCode) (s : State) : (recordFault e s).validPcg64 = s.validPcg64 := rfl
@[simp] theorem recordFault_buf (e : FaultCode) (s : State) : (recordFault e s).buf = s.buf := rfl
@[simp] theorem recordFault_mt32 (e : FaultCode) (s : State) : (recordFault e s).mt32 = s.mt32 := rfl
@[simp] theorem recordFault_mt64 (e : FaultCode) (s : State) : (recordFault e s).mt64 = s.mt64 := rfl
@[simp] theorem recordFault_pcg32 (e : FaultCode) (s : State) : (recordFault e s).pcg32 = s.pcg32 := rfl
@[simp] theorem recordFault_pcg64 (e : FaultCode) (s : State) : (recordFault e s).pcg64 = s.pcg64 := rfl
@[simp] theorem recordFault_draws (e : FaultCode) (s : State) : (recordFault e s).draws = s.draws := rfl
@[simp] theorem recordFault_hostProg (e : FaultCode) (s : State) : (recordFault e s).hostProg = s.hostProg := rfl
@[simp] theorem recordFault_hostAt (e : FaultCode) (s : State) : (recordFault e s).hostAt = s.hostAt := rfl
@[simp] theorem recordFault_hostVars (e : FaultCode) (s : State) : (recordFault e s).hostVars = s.hostVars := rfl
@[simp] theorem recordFault_turns (e : FaultCode) (s : State) : (recordFault e s).turns = s.turns := rfl

/-! ### raiseFault -/

@[simp] theorem raiseFault_a (e : FaultCode) (s : State) : (raiseFault e s).a = s.a := rfl
@[simp] theorem raiseFault_b (e : FaultCode) (s : State) : (raiseFault e s).b = s.b := rfl
@[simp] theorem raiseFault_r (e : FaultCode) (s : State) : (raiseFault e s).r = s.r := rfl
@[simp] theorem raiseFault_c (e : FaultCode) (s : State) : (raiseFault e s).c = s.c := rfl
@[simp] theorem raiseFault_len (e : FaultCode) (s : State) : (raiseFault e s).len = s.len := rfl
@[simp] theorem raiseFault_pending (e : FaultCode) (s : State) : (raiseFault e s).pending = s.pending := rfl
@[simp] theorem raiseFault_busy (e : FaultCode) (s : State) : (raiseFault e s).busy = false := rfl
@[simp] theorem raiseFault_fault (e : FaultCode) (s : State) : (raiseFault e s).fault = true := rfl
@[simp] theorem raiseFault_rj (e : FaultCode) (s : State) : (raiseFault e s).rj = false := rfl
@[simp] theorem raiseFault_code (e : FaultCode) (s : State) : (raiseFault e s).code = if s.code = .none then e else s.code := rfl
@[simp] theorem raiseFault_validMt32 (e : FaultCode) (s : State) : (raiseFault e s).validMt32 = s.validMt32 := rfl
@[simp] theorem raiseFault_validMt64 (e : FaultCode) (s : State) : (raiseFault e s).validMt64 = s.validMt64 := rfl
@[simp] theorem raiseFault_validPcg32 (e : FaultCode) (s : State) : (raiseFault e s).validPcg32 = s.validPcg32 := rfl
@[simp] theorem raiseFault_validPcg64 (e : FaultCode) (s : State) : (raiseFault e s).validPcg64 = s.validPcg64 := rfl
@[simp] theorem raiseFault_buf (e : FaultCode) (s : State) : (raiseFault e s).buf = s.buf := rfl
@[simp] theorem raiseFault_mt32 (e : FaultCode) (s : State) : (raiseFault e s).mt32 = s.mt32 := rfl
@[simp] theorem raiseFault_mt64 (e : FaultCode) (s : State) : (raiseFault e s).mt64 = s.mt64 := rfl
@[simp] theorem raiseFault_pcg32 (e : FaultCode) (s : State) : (raiseFault e s).pcg32 = s.pcg32 := rfl
@[simp] theorem raiseFault_pcg64 (e : FaultCode) (s : State) : (raiseFault e s).pcg64 = s.pcg64 := rfl
@[simp] theorem raiseFault_draws (e : FaultCode) (s : State) : (raiseFault e s).draws = s.draws := rfl
@[simp] theorem raiseFault_hostProg (e : FaultCode) (s : State) : (raiseFault e s).hostProg = s.hostProg := rfl
@[simp] theorem raiseFault_hostAt (e : FaultCode) (s : State) : (raiseFault e s).hostAt = s.hostAt := rfl
@[simp] theorem raiseFault_hostVars (e : FaultCode) (s : State) : (raiseFault e s).hostVars = s.hostVars := rfl
@[simp] theorem raiseFault_turns (e : FaultCode) (s : State) : (raiseFault e s).turns = s.turns := rfl

/-! ### setR -/

@[simp] theorem setR_a {n : Nat} (v : BitVec n) (s : State) : (setR v s).a = s.a := rfl
@[simp] theorem setR_b {n : Nat} (v : BitVec n) (s : State) : (setR v s).b = s.b := rfl
@[simp] theorem setR_r {n : Nat} (v : BitVec n) (s : State) : (setR v s).r = zext 128 v := rfl
@[simp] theorem setR_c {n : Nat} (v : BitVec n) (s : State) : (setR v s).c = s.c := rfl
@[simp] theorem setR_len {n : Nat} (v : BitVec n) (s : State) : (setR v s).len = s.len := rfl
@[simp] theorem setR_pending {n : Nat} (v : BitVec n) (s : State) : (setR v s).pending = s.pending := rfl
@[simp] theorem setR_busy {n : Nat} (v : BitVec n) (s : State) : (setR v s).busy = s.busy := rfl
@[simp] theorem setR_fault {n : Nat} (v : BitVec n) (s : State) : (setR v s).fault = s.fault := rfl
@[simp] theorem setR_rj {n : Nat} (v : BitVec n) (s : State) : (setR v s).rj = s.rj := rfl
@[simp] theorem setR_code {n : Nat} (v : BitVec n) (s : State) : (setR v s).code = s.code := rfl
@[simp] theorem setR_validMt32 {n : Nat} (v : BitVec n) (s : State) : (setR v s).validMt32 = s.validMt32 := rfl
@[simp] theorem setR_validMt64 {n : Nat} (v : BitVec n) (s : State) : (setR v s).validMt64 = s.validMt64 := rfl
@[simp] theorem setR_validPcg32 {n : Nat} (v : BitVec n) (s : State) : (setR v s).validPcg32 = s.validPcg32 := rfl
@[simp] theorem setR_validPcg64 {n : Nat} (v : BitVec n) (s : State) : (setR v s).validPcg64 = s.validPcg64 := rfl
@[simp] theorem setR_buf {n : Nat} (v : BitVec n) (s : State) : (setR v s).buf = s.buf := rfl
@[simp] theorem setR_mt32 {n : Nat} (v : BitVec n) (s : State) : (setR v s).mt32 = s.mt32 := rfl
@[simp] theorem setR_mt64 {n : Nat} (v : BitVec n) (s : State) : (setR v s).mt64 = s.mt64 := rfl
@[simp] theorem setR_pcg32 {n : Nat} (v : BitVec n) (s : State) : (setR v s).pcg32 = s.pcg32 := rfl
@[simp] theorem setR_pcg64 {n : Nat} (v : BitVec n) (s : State) : (setR v s).pcg64 = s.pcg64 := rfl
@[simp] theorem setR_draws {n : Nat} (v : BitVec n) (s : State) : (setR v s).draws = s.draws := rfl
@[simp] theorem setR_hostProg {n : Nat} (v : BitVec n) (s : State) : (setR v s).hostProg = s.hostProg := rfl
@[simp] theorem setR_hostAt {n : Nat} (v : BitVec n) (s : State) : (setR v s).hostAt = s.hostAt := rfl
@[simp] theorem setR_hostVars {n : Nat} (v : BitVec n) (s : State) : (setR v s).hostVars = s.hostVars := rfl
@[simp] theorem setR_turns {n : Nat} (v : BitVec n) (s : State) : (setR v s).turns = s.turns := rfl

/-! ### memWrite -/

@[simp] theorem memWrite_a (x : Nat) (bs : List Byte) (s : State) : (memWrite x bs s).a = s.a := rfl
@[simp] theorem memWrite_b (x : Nat) (bs : List Byte) (s : State) : (memWrite x bs s).b = s.b := rfl
@[simp] theorem memWrite_r (x : Nat) (bs : List Byte) (s : State) : (memWrite x bs s).r = s.r := rfl
@[simp] theorem memWrite_c (x : Nat) (bs : List Byte) (s : State) : (memWrite x bs s).c = s.c := rfl
@[simp] theorem memWrite_len (x : Nat) (bs : List Byte) (s : State) : (memWrite x bs s).len = s.len := rfl
@[simp] theorem memWrite_pending (x : Nat) (bs : List Byte) (s : State) : (memWrite x bs s).pending = s.pending := rfl
@[simp] theorem memWrite_busy (x : Nat) (bs : List Byte) (s : State) : (memWrite x bs s).busy = s.busy := rfl
@[simp] theorem memWrite_fault (x : Nat) (bs : List Byte) (s : State) : (memWrite x bs s).fault = s.fault := rfl
@[simp] theorem memWrite_rj (x : Nat) (bs : List Byte) (s : State) : (memWrite x bs s).rj = s.rj := rfl
@[simp] theorem memWrite_code (x : Nat) (bs : List Byte) (s : State) : (memWrite x bs s).code = s.code := rfl
@[simp] theorem memWrite_validMt32 (x : Nat) (bs : List Byte) (s : State) : (memWrite x bs s).validMt32 = s.validMt32 := rfl
@[simp] theorem memWrite_validMt64 (x : Nat) (bs : List Byte) (s : State) : (memWrite x bs s).validMt64 = s.validMt64 := rfl
@[simp] theorem memWrite_validPcg32 (x : Nat) (bs : List Byte) (s : State) : (memWrite x bs s).validPcg32 = s.validPcg32 := rfl
@[simp] theorem memWrite_validPcg64 (x : Nat) (bs : List Byte) (s : State) : (memWrite x bs s).validPcg64 = s.validPcg64 := rfl
@[simp] theorem memWrite_buf (x : Nat) (bs : List Byte) (s : State) : (memWrite x bs s).buf = s.buf.write x bs := rfl
@[simp] theorem memWrite_mt32 (x : Nat) (bs : List Byte) (s : State) : (memWrite x bs s).mt32 = s.mt32 := rfl
@[simp] theorem memWrite_mt64 (x : Nat) (bs : List Byte) (s : State) : (memWrite x bs s).mt64 = s.mt64 := rfl
@[simp] theorem memWrite_pcg32 (x : Nat) (bs : List Byte) (s : State) : (memWrite x bs s).pcg32 = s.pcg32 := rfl
@[simp] theorem memWrite_pcg64 (x : Nat) (bs : List Byte) (s : State) : (memWrite x bs s).pcg64 = s.pcg64 := rfl
@[simp] theorem memWrite_draws (x : Nat) (bs : List Byte) (s : State) : (memWrite x bs s).draws = s.draws := rfl
@[simp] theorem memWrite_hostProg (x : Nat) (bs : List Byte) (s : State) : (memWrite x bs s).hostProg = s.hostProg := rfl
@[simp] theorem memWrite_hostAt (x : Nat) (bs : List Byte) (s : State) : (memWrite x bs s).hostAt = s.hostAt := rfl
@[simp] theorem memWrite_hostVars (x : Nat) (bs : List Byte) (s : State) : (memWrite x bs s).hostVars = s.hostVars := rfl
@[simp] theorem memWrite_turns (x : Nat) (bs : List Byte) (s : State) : (memWrite x bs s).turns = s.turns := rfl

/-! ### memRead_snd -/

@[simp] theorem memRead_snd_a (x n : Nat) (s : State) : (memRead x n s).2.a = s.a := rfl
@[simp] theorem memRead_snd_b (x n : Nat) (s : State) : (memRead x n s).2.b = s.b := rfl
@[simp] theorem memRead_snd_r (x n : Nat) (s : State) : (memRead x n s).2.r = s.r := rfl
@[simp] theorem memRead_snd_c (x n : Nat) (s : State) : (memRead x n s).2.c = s.c := rfl
@[simp] theorem memRead_snd_len (x n : Nat) (s : State) : (memRead x n s).2.len = s.len := rfl
@[simp] theorem memRead_snd_pending (x n : Nat) (s : State) : (memRead x n s).2.pending = s.pending := rfl
@[simp] theorem memRead_snd_busy (x n : Nat) (s : State) : (memRead x n s).2.busy = s.busy := rfl
@[simp] theorem memRead_snd_fault (x n : Nat) (s : State) : (memRead x n s).2.fault = s.fault := rfl
@[simp] theorem memRead_snd_rj (x n : Nat) (s : State) : (memRead x n s).2.rj = s.rj := rfl
@[simp] theorem memRead_snd_code (x n : Nat) (s : State) : (memRead x n s).2.code = s.code := rfl
@[simp] theorem memRead_snd_validMt32 (x n : Nat) (s : State) : (memRead x n s).2.validMt32 = s.validMt32 := rfl
@[simp] theorem memRead_snd_validMt64 (x n : Nat) (s : State) : (memRead x n s).2.validMt64 = s.validMt64 := rfl
@[simp] theorem memRead_snd_validPcg32 (x n : Nat) (s : State) : (memRead x n s).2.validPcg32 = s.validPcg32 := rfl
@[simp] theorem memRead_snd_validPcg64 (x n : Nat) (s : State) : (memRead x n s).2.validPcg64 = s.validPcg64 := rfl
@[simp] theorem memRead_snd_buf (x n : Nat) (s : State) : (memRead x n s).2.buf = s.buf := rfl
@[simp] theorem memRead_snd_mt32 (x n : Nat) (s : State) : (memRead x n s).2.mt32 = s.mt32 := rfl
@[simp] theorem memRead_snd_mt64 (x n : Nat) (s : State) : (memRead x n s).2.mt64 = s.mt64 := rfl
@[simp] theorem memRead_snd_pcg32 (x n : Nat) (s : State) : (memRead x n s).2.pcg32 = s.pcg32 := rfl
@[simp] theorem memRead_snd_pcg64 (x n : Nat) (s : State) : (memRead x n s).2.pcg64 = s.pcg64 := rfl
@[simp] theorem memRead_snd_draws (x n : Nat) (s : State) : (memRead x n s).2.draws = (s.buf.read n x s.draws).2 := rfl
@[simp] theorem memRead_snd_hostProg (x n : Nat) (s : State) : (memRead x n s).2.hostProg = s.hostProg := rfl
@[simp] theorem memRead_snd_hostAt (x n : Nat) (s : State) : (memRead x n s).2.hostAt = s.hostAt := rfl
@[simp] theorem memRead_snd_hostVars (x n : Nat) (s : State) : (memRead x n s).2.hostVars = s.hostVars := rfl
@[simp] theorem memRead_snd_turns (x n : Nat) (s : State) : (memRead x n s).2.turns = s.turns := rfl

/-! ### dropTurn -/

@[simp] theorem dropTurn_a (s : State) : (dropTurn s).a = s.a := rfl
@[simp] theorem dropTurn_b (s : State) : (dropTurn s).b = s.b := rfl
@[simp] theorem dropTurn_r (s : State) : (dropTurn s).r = s.r := rfl
@[simp] theorem dropTurn_c (s : State) : (dropTurn s).c = s.c := rfl
@[simp] theorem dropTurn_len (s : State) : (dropTurn s).len = s.len := rfl
@[simp] theorem dropTurn_pending (s : State) : (dropTurn s).pending = s.pending := rfl
@[simp] theorem dropTurn_busy (s : State) : (dropTurn s).busy = s.busy := rfl
@[simp] theorem dropTurn_fault (s : State) : (dropTurn s).fault = s.fault := rfl
@[simp] theorem dropTurn_rj (s : State) : (dropTurn s).rj = s.rj := rfl
@[simp] theorem dropTurn_code (s : State) : (dropTurn s).code = s.code := rfl
@[simp] theorem dropTurn_validMt32 (s : State) : (dropTurn s).validMt32 = s.validMt32 := rfl
@[simp] theorem dropTurn_validMt64 (s : State) : (dropTurn s).validMt64 = s.validMt64 := rfl
@[simp] theorem dropTurn_validPcg32 (s : State) : (dropTurn s).validPcg32 = s.validPcg32 := rfl
@[simp] theorem dropTurn_validPcg64 (s : State) : (dropTurn s).validPcg64 = s.validPcg64 := rfl
@[simp] theorem dropTurn_buf (s : State) : (dropTurn s).buf = s.buf := rfl
@[simp] theorem dropTurn_mt32 (s : State) : (dropTurn s).mt32 = s.mt32 := rfl
@[simp] theorem dropTurn_mt64 (s : State) : (dropTurn s).mt64 = s.mt64 := rfl
@[simp] theorem dropTurn_pcg32 (s : State) : (dropTurn s).pcg32 = s.pcg32 := rfl
@[simp] theorem dropTurn_pcg64 (s : State) : (dropTurn s).pcg64 = s.pcg64 := rfl
@[simp] theorem dropTurn_draws (s : State) : (dropTurn s).draws = s.draws := rfl
@[simp] theorem dropTurn_hostProg (s : State) : (dropTurn s).hostProg = s.hostProg := rfl
@[simp] theorem dropTurn_hostAt (s : State) : (dropTurn s).hostAt = s.hostAt := rfl
@[simp] theorem dropTurn_hostVars (s : State) : (dropTurn s).hostVars = s.hostVars := rfl
@[simp] theorem dropTurn_turns (s : State) : (dropTurn s).turns = s.turns.tail := rfl

/-! ### hostNextStmt -/

@[simp] theorem hostNextStmt_a (s : State) : (hostNextStmt s).a = s.a := rfl
@[simp] theorem hostNextStmt_b (s : State) : (hostNextStmt s).b = s.b := rfl
@[simp] theorem hostNextStmt_r (s : State) : (hostNextStmt s).r = s.r := rfl
@[simp] theorem hostNextStmt_c (s : State) : (hostNextStmt s).c = s.c := rfl
@[simp] theorem hostNextStmt_len (s : State) : (hostNextStmt s).len = s.len := rfl
@[simp] theorem hostNextStmt_pending (s : State) : (hostNextStmt s).pending = s.pending := rfl
@[simp] theorem hostNextStmt_busy (s : State) : (hostNextStmt s).busy = s.busy := rfl
@[simp] theorem hostNextStmt_fault (s : State) : (hostNextStmt s).fault = s.fault := rfl
@[simp] theorem hostNextStmt_rj (s : State) : (hostNextStmt s).rj = s.rj := rfl
@[simp] theorem hostNextStmt_code (s : State) : (hostNextStmt s).code = s.code := rfl
@[simp] theorem hostNextStmt_validMt32 (s : State) : (hostNextStmt s).validMt32 = s.validMt32 := rfl
@[simp] theorem hostNextStmt_validMt64 (s : State) : (hostNextStmt s).validMt64 = s.validMt64 := rfl
@[simp] theorem hostNextStmt_validPcg32 (s : State) : (hostNextStmt s).validPcg32 = s.validPcg32 := rfl
@[simp] theorem hostNextStmt_validPcg64 (s : State) : (hostNextStmt s).validPcg64 = s.validPcg64 := rfl
@[simp] theorem hostNextStmt_buf (s : State) : (hostNextStmt s).buf = s.buf := rfl
@[simp] theorem hostNextStmt_mt32 (s : State) : (hostNextStmt s).mt32 = s.mt32 := rfl
@[simp] theorem hostNextStmt_mt64 (s : State) : (hostNextStmt s).mt64 = s.mt64 := rfl
@[simp] theorem hostNextStmt_pcg32 (s : State) : (hostNextStmt s).pcg32 = s.pcg32 := rfl
@[simp] theorem hostNextStmt_pcg64 (s : State) : (hostNextStmt s).pcg64 = s.pcg64 := rfl
@[simp] theorem hostNextStmt_draws (s : State) : (hostNextStmt s).draws = s.draws := rfl
@[simp] theorem hostNextStmt_hostProg (s : State) : (hostNextStmt s).hostProg = s.hostProg := rfl
@[simp] theorem hostNextStmt_hostAt (s : State) : (hostNextStmt s).hostAt = s.hostAt + 1 := rfl
@[simp] theorem hostNextStmt_hostVars (s : State) : (hostNextStmt s).hostVars = s.hostVars := rfl
@[simp] theorem hostNextStmt_turns (s : State) : (hostNextStmt s).turns = s.turns := rfl

/-! ### setHostVar -/

@[simp] theorem setHostVar_a (h v : Nat) (s : State) : (setHostVar h v s).a = s.a := rfl
@[simp] theorem setHostVar_b (h v : Nat) (s : State) : (setHostVar h v s).b = s.b := rfl
@[simp] theorem setHostVar_r (h v : Nat) (s : State) : (setHostVar h v s).r = s.r := rfl
@[simp] theorem setHostVar_c (h v : Nat) (s : State) : (setHostVar h v s).c = s.c := rfl
@[simp] theorem setHostVar_len (h v : Nat) (s : State) : (setHostVar h v s).len = s.len := rfl
@[simp] theorem setHostVar_pending (h v : Nat) (s : State) : (setHostVar h v s).pending = s.pending := rfl
@[simp] theorem setHostVar_busy (h v : Nat) (s : State) : (setHostVar h v s).busy = s.busy := rfl
@[simp] theorem setHostVar_fault (h v : Nat) (s : State) : (setHostVar h v s).fault = s.fault := rfl
@[simp] theorem setHostVar_rj (h v : Nat) (s : State) : (setHostVar h v s).rj = s.rj := rfl
@[simp] theorem setHostVar_code (h v : Nat) (s : State) : (setHostVar h v s).code = s.code := rfl
@[simp] theorem setHostVar_validMt32 (h v : Nat) (s : State) : (setHostVar h v s).validMt32 = s.validMt32 := rfl
@[simp] theorem setHostVar_validMt64 (h v : Nat) (s : State) : (setHostVar h v s).validMt64 = s.validMt64 := rfl
@[simp] theorem setHostVar_validPcg32 (h v : Nat) (s : State) : (setHostVar h v s).validPcg32 = s.validPcg32 := rfl
@[simp] theorem setHostVar_validPcg64 (h v : Nat) (s : State) : (setHostVar h v s).validPcg64 = s.validPcg64 := rfl
@[simp] theorem setHostVar_buf (h v : Nat) (s : State) : (setHostVar h v s).buf = s.buf := rfl
@[simp] theorem setHostVar_mt32 (h v : Nat) (s : State) : (setHostVar h v s).mt32 = s.mt32 := rfl
@[simp] theorem setHostVar_mt64 (h v : Nat) (s : State) : (setHostVar h v s).mt64 = s.mt64 := rfl
@[simp] theorem setHostVar_pcg32 (h v : Nat) (s : State) : (setHostVar h v s).pcg32 = s.pcg32 := rfl
@[simp] theorem setHostVar_pcg64 (h v : Nat) (s : State) : (setHostVar h v s).pcg64 = s.pcg64 := rfl
@[simp] theorem setHostVar_draws (h v : Nat) (s : State) : (setHostVar h v s).draws = s.draws := rfl
@[simp] theorem setHostVar_hostProg (h v : Nat) (s : State) : (setHostVar h v s).hostProg = s.hostProg := rfl
@[simp] theorem setHostVar_hostAt (h v : Nat) (s : State) : (setHostVar h v s).hostAt = s.hostAt := rfl
@[simp] theorem setHostVar_hostVars (h v : Nat) (s : State) : (setHostVar h v s).hostVars = (h, v) :: s.hostVars.filter fun p => p.1 != h := rfl
@[simp] theorem setHostVar_turns (h v : Nat) (s : State) : (setHostVar h v s).turns = s.turns := rfl

/-! ### mt32Unit_setCtx -/

@[simp] theorem mt32Unit_setCtx_a (x : Mt32) (s : State) : (mt32Unit.setCtx x s).a = s.a := rfl
@[simp] theorem mt32Unit_setCtx_b (x : Mt32) (s : State) : (mt32Unit.setCtx x s).b = s.b := rfl
@[simp] theorem mt32Unit_setCtx_r (x : Mt32) (s : State) : (mt32Unit.setCtx x s).r = s.r := rfl
@[simp] theorem mt32Unit_setCtx_c (x : Mt32) (s : State) : (mt32Unit.setCtx x s).c = s.c := rfl
@[simp] theorem mt32Unit_setCtx_len (x : Mt32) (s : State) : (mt32Unit.setCtx x s).len = s.len := rfl
@[simp] theorem mt32Unit_setCtx_pending (x : Mt32) (s : State) : (mt32Unit.setCtx x s).pending = s.pending := rfl
@[simp] theorem mt32Unit_setCtx_busy (x : Mt32) (s : State) : (mt32Unit.setCtx x s).busy = s.busy := rfl
@[simp] theorem mt32Unit_setCtx_fault (x : Mt32) (s : State) : (mt32Unit.setCtx x s).fault = s.fault := rfl
@[simp] theorem mt32Unit_setCtx_rj (x : Mt32) (s : State) : (mt32Unit.setCtx x s).rj = s.rj := rfl
@[simp] theorem mt32Unit_setCtx_code (x : Mt32) (s : State) : (mt32Unit.setCtx x s).code = s.code := rfl
@[simp] theorem mt32Unit_setCtx_validMt32 (x : Mt32) (s : State) : (mt32Unit.setCtx x s).validMt32 = s.validMt32 := rfl
@[simp] theorem mt32Unit_setCtx_validMt64 (x : Mt32) (s : State) : (mt32Unit.setCtx x s).validMt64 = s.validMt64 := rfl
@[simp] theorem mt32Unit_setCtx_validPcg32 (x : Mt32) (s : State) : (mt32Unit.setCtx x s).validPcg32 = s.validPcg32 := rfl
@[simp] theorem mt32Unit_setCtx_validPcg64 (x : Mt32) (s : State) : (mt32Unit.setCtx x s).validPcg64 = s.validPcg64 := rfl
@[simp] theorem mt32Unit_setCtx_buf (x : Mt32) (s : State) : (mt32Unit.setCtx x s).buf = s.buf := rfl
@[simp] theorem mt32Unit_setCtx_mt32 (x : Mt32) (s : State) : (mt32Unit.setCtx x s).mt32 = x := rfl
@[simp] theorem mt32Unit_setCtx_mt64 (x : Mt32) (s : State) : (mt32Unit.setCtx x s).mt64 = s.mt64 := rfl
@[simp] theorem mt32Unit_setCtx_pcg32 (x : Mt32) (s : State) : (mt32Unit.setCtx x s).pcg32 = s.pcg32 := rfl
@[simp] theorem mt32Unit_setCtx_pcg64 (x : Mt32) (s : State) : (mt32Unit.setCtx x s).pcg64 = s.pcg64 := rfl
@[simp] theorem mt32Unit_setCtx_draws (x : Mt32) (s : State) : (mt32Unit.setCtx x s).draws = s.draws := rfl
@[simp] theorem mt32Unit_setCtx_hostProg (x : Mt32) (s : State) : (mt32Unit.setCtx x s).hostProg = s.hostProg := rfl
@[simp] theorem mt32Unit_setCtx_hostAt (x : Mt32) (s : State) : (mt32Unit.setCtx x s).hostAt = s.hostAt := rfl
@[simp] theorem mt32Unit_setCtx_hostVars (x : Mt32) (s : State) : (mt32Unit.setCtx x s).hostVars = s.hostVars := rfl
@[simp] theorem mt32Unit_setCtx_turns (x : Mt32) (s : State) : (mt32Unit.setCtx x s).turns = s.turns := rfl

/-! ### construct_mt32Unit -/

@[simp] theorem construct_mt32Unit_a (x : Mt32) (s : State) : (construct mt32Unit x s).a = s.a := rfl
@[simp] theorem construct_mt32Unit_b (x : Mt32) (s : State) : (construct mt32Unit x s).b = s.b := rfl
@[simp] theorem construct_mt32Unit_r (x : Mt32) (s : State) : (construct mt32Unit x s).r = s.r := rfl
@[simp] theorem construct_mt32Unit_c (x : Mt32) (s : State) : (construct mt32Unit x s).c = s.c := rfl
@[simp] theorem construct_mt32Unit_len (x : Mt32) (s : State) : (construct mt32Unit x s).len = s.len := rfl
@[simp] theorem construct_mt32Unit_pending (x : Mt32) (s : State) : (construct mt32Unit x s).pending = s.pending := rfl
@[simp] theorem construct_mt32Unit_busy (x : Mt32) (s : State) : (construct mt32Unit x s).busy = s.busy := rfl
@[simp] theorem construct_mt32Unit_fault (x : Mt32) (s : State) : (construct mt32Unit x s).fault = s.fault := rfl
@[simp] theorem construct_mt32Unit_rj (x : Mt32) (s : State) : (construct mt32Unit x s).rj = s.rj := rfl
@[simp] theorem construct_mt32Unit_code (x : Mt32) (s : State) : (construct mt32Unit x s).code = s.code := rfl
@[simp] theorem construct_mt32Unit_validMt32 (x : Mt32) (s : State) : (construct mt32Unit x s).validMt32 = true := rfl
@[simp] theorem construct_mt32Unit_validMt64 (x : Mt32) (s : State) : (construct mt32Unit x s).validMt64 = s.validMt64 := rfl
@[simp] theorem construct_mt32Unit_validPcg32 (x : Mt32) (s : State) : (construct mt32Unit x s).validPcg32 = s.validPcg32 := rfl
@[simp] theorem construct_mt32Unit_validPcg64 (x : Mt32) (s : State) : (construct mt32Unit x s).validPcg64 = s.validPcg64 := rfl
@[simp] theorem construct_mt32Unit_buf (x : Mt32) (s : State) : (construct mt32Unit x s).buf = s.buf := rfl
@[simp] theorem construct_mt32Unit_mt32 (x : Mt32) (s : State) : (construct mt32Unit x s).mt32 = x := rfl
@[simp] theorem construct_mt32Unit_mt64 (x : Mt32) (s : State) : (construct mt32Unit x s).mt64 = s.mt64 := rfl
@[simp] theorem construct_mt32Unit_pcg32 (x : Mt32) (s : State) : (construct mt32Unit x s).pcg32 = s.pcg32 := rfl
@[simp] theorem construct_mt32Unit_pcg64 (x : Mt32) (s : State) : (construct mt32Unit x s).pcg64 = s.pcg64 := rfl
@[simp] theorem construct_mt32Unit_draws (x : Mt32) (s : State) : (construct mt32Unit x s).draws = s.draws := rfl
@[simp] theorem construct_mt32Unit_hostProg (x : Mt32) (s : State) : (construct mt32Unit x s).hostProg = s.hostProg := rfl
@[simp] theorem construct_mt32Unit_hostAt (x : Mt32) (s : State) : (construct mt32Unit x s).hostAt = s.hostAt := rfl
@[simp] theorem construct_mt32Unit_hostVars (x : Mt32) (s : State) : (construct mt32Unit x s).hostVars = s.hostVars := rfl
@[simp] theorem construct_mt32Unit_turns (x : Mt32) (s : State) : (construct mt32Unit x s).turns = s.turns := rfl

/-! ### mt64Unit_setCtx -/

@[simp] theorem mt64Unit_setCtx_a (x : Mt64) (s : State) : (mt64Unit.setCtx x s).a = s.a := rfl
@[simp] theorem mt64Unit_setCtx_b (x : Mt64) (s : State) : (mt64Unit.setCtx x s).b = s.b := rfl
@[simp] theorem mt64Unit_setCtx_r (x : Mt64) (s : State) : (mt64Unit.setCtx x s).r = s.r := rfl
@[simp] theorem mt64Unit_setCtx_c (x : Mt64) (s : State) : (mt64Unit.setCtx x s).c = s.c := rfl
@[simp] theorem mt64Unit_setCtx_len (x : Mt64) (s : State) : (mt64Unit.setCtx x s).len = s.len := rfl
@[simp] theorem mt64Unit_setCtx_pending (x : Mt64) (s : State) : (mt64Unit.setCtx x s).pending = s.pending := rfl
@[simp] theorem mt64Unit_setCtx_busy (x : Mt64) (s : State) : (mt64Unit.setCtx x s).busy = s.busy := rfl
@[simp] theorem mt64Unit_setCtx_fault (x : Mt64) (s : State) : (mt64Unit.setCtx x s).fault = s.fault := rfl
@[simp] theorem mt64Unit_setCtx_rj (x : Mt64) (s : State) : (mt64Unit.setCtx x s).rj = s.rj := rfl
@[simp] theorem mt64Unit_setCtx_code (x : Mt64) (s : State) : (mt64Unit.setCtx x s).code = s.code := rfl
@[simp] theorem mt64Unit_setCtx_validMt32 (x : Mt64) (s : State) : (mt64Unit.setCtx x s).validMt32 = s.validMt32 := rfl
@[simp] theorem mt64Unit_setCtx_validMt64 (x : Mt64) (s : State) : (mt64Unit.setCtx x s).validMt64 = s.validMt64 := rfl
@[simp] theorem mt64Unit_setCtx_validPcg32 (x : Mt64) (s : State) : (mt64Unit.setCtx x s).validPcg32 = s.validPcg32 := rfl
@[simp] theorem mt64Unit_setCtx_validPcg64 (x : Mt64) (s : State) : (mt64Unit.setCtx x s).validPcg64 = s.validPcg64 := rfl
@[simp] theorem mt64Unit_setCtx_buf (x : Mt64) (s : State) : (mt64Unit.setCtx x s).buf = s.buf := rfl
@[simp] theorem mt64Unit_setCtx_mt32 (x : Mt64) (s : State) : (mt64Unit.setCtx x s).mt32 = s.mt32 := rfl
@[simp] theorem mt64Unit_setCtx_mt64 (x : Mt64) (s : State) : (mt64Unit.setCtx x s).mt64 = x := rfl
@[simp] theorem mt64Unit_setCtx_pcg32 (x : Mt64) (s : State) : (mt64Unit.setCtx x s).pcg32 = s.pcg32 := rfl
@[simp] theorem mt64Unit_setCtx_pcg64 (x : Mt64) (s : State) : (mt64Unit.setCtx x s).pcg64 = s.pcg64 := rfl
@[simp] theorem mt64Unit_setCtx_draws (x : Mt64) (s : State) : (mt64Unit.setCtx x s).draws = s.draws := rfl
@[simp] theorem mt64Unit_setCtx_hostProg (x : Mt64) (s : State) : (mt64Unit.setCtx x s).hostProg = s.hostProg := rfl
@[simp] theorem mt64Unit_setCtx_hostAt (x : Mt64) (s : State) : (mt64Unit.setCtx x s).hostAt = s.hostAt := rfl
@[simp] theorem mt64Unit_setCtx_hostVars (x : Mt64) (s : State) : (mt64Unit.setCtx x s).hostVars = s.hostVars := rfl
@[simp] theorem mt64Unit_setCtx_turns (x : Mt64) (s : State) : (mt64Unit.setCtx x s).turns = s.turns := rfl

/-! ### construct_mt64Unit -/

@[simp] theorem construct_mt64Unit_a (x : Mt64) (s : State) : (construct mt64Unit x s).a = s.a := rfl
@[simp] theorem construct_mt64Unit_b (x : Mt64) (s : State) : (construct mt64Unit x s).b = s.b := rfl
@[simp] theorem construct_mt64Unit_r (x : Mt64) (s : State) : (construct mt64Unit x s).r = s.r := rfl
@[simp] theorem construct_mt64Unit_c (x : Mt64) (s : State) : (construct mt64Unit x s).c = s.c := rfl
@[simp] theorem construct_mt64Unit_len (x : Mt64) (s : State) : (construct mt64Unit x s).len = s.len := rfl
@[simp] theorem construct_mt64Unit_pending (x : Mt64) (s : State) : (construct mt64Unit x s).pending = s.pending := rfl
@[simp] theorem construct_mt64Unit_busy (x : Mt64) (s : State) : (construct mt64Unit x s).busy = s.busy := rfl
@[simp] theorem construct_mt64Unit_fault (x : Mt64) (s : State) : (construct mt64Unit x s).fault = s.fault := rfl
@[simp] theorem construct_mt64Unit_rj (x : Mt64) (s : State) : (construct mt64Unit x s).rj = s.rj := rfl
@[simp] theorem construct_mt64Unit_code (x : Mt64) (s : State) : (construct mt64Unit x s).code = s.code := rfl
@[simp] theorem construct_mt64Unit_validMt32 (x : Mt64) (s : State) : (construct mt64Unit x s).validMt32 = s.validMt32 := rfl
@[simp] theorem construct_mt64Unit_validMt64 (x : Mt64) (s : State) : (construct mt64Unit x s).validMt64 = true := rfl
@[simp] theorem construct_mt64Unit_validPcg32 (x : Mt64) (s : State) : (construct mt64Unit x s).validPcg32 = s.validPcg32 := rfl
@[simp] theorem construct_mt64Unit_validPcg64 (x : Mt64) (s : State) : (construct mt64Unit x s).validPcg64 = s.validPcg64 := rfl
@[simp] theorem construct_mt64Unit_buf (x : Mt64) (s : State) : (construct mt64Unit x s).buf = s.buf := rfl
@[simp] theorem construct_mt64Unit_mt32 (x : Mt64) (s : State) : (construct mt64Unit x s).mt32 = s.mt32 := rfl
@[simp] theorem construct_mt64Unit_mt64 (x : Mt64) (s : State) : (construct mt64Unit x s).mt64 = x := rfl
@[simp] theorem construct_mt64Unit_pcg32 (x : Mt64) (s : State) : (construct mt64Unit x s).pcg32 = s.pcg32 := rfl
@[simp] theorem construct_mt64Unit_pcg64 (x : Mt64) (s : State) : (construct mt64Unit x s).pcg64 = s.pcg64 := rfl
@[simp] theorem construct_mt64Unit_draws (x : Mt64) (s : State) : (construct mt64Unit x s).draws = s.draws := rfl
@[simp] theorem construct_mt64Unit_hostProg (x : Mt64) (s : State) : (construct mt64Unit x s).hostProg = s.hostProg := rfl
@[simp] theorem construct_mt64Unit_hostAt (x : Mt64) (s : State) : (construct mt64Unit x s).hostAt = s.hostAt := rfl
@[simp] theorem construct_mt64Unit_hostVars (x : Mt64) (s : State) : (construct mt64Unit x s).hostVars = s.hostVars := rfl
@[simp] theorem construct_mt64Unit_turns (x : Mt64) (s : State) : (construct mt64Unit x s).turns = s.turns := rfl

/-! ### pcg32Unit_setCtx -/

@[simp] theorem pcg32Unit_setCtx_a (x : Pcg32) (s : State) : (pcg32Unit.setCtx x s).a = s.a := rfl
@[simp] theorem pcg32Unit_setCtx_b (x : Pcg32) (s : State) : (pcg32Unit.setCtx x s).b = s.b := rfl
@[simp] theorem pcg32Unit_setCtx_r (x : Pcg32) (s : State) : (pcg32Unit.setCtx x s).r = s.r := rfl
@[simp] theorem pcg32Unit_setCtx_c (x : Pcg32) (s : State) : (pcg32Unit.setCtx x s).c = s.c := rfl
@[simp] theorem pcg32Unit_setCtx_len (x : Pcg32) (s : State) : (pcg32Unit.setCtx x s).len = s.len := rfl
@[simp] theorem pcg32Unit_setCtx_pending (x : Pcg32) (s : State) : (pcg32Unit.setCtx x s).pending = s.pending := rfl
@[simp] theorem pcg32Unit_setCtx_busy (x : Pcg32) (s : State) : (pcg32Unit.setCtx x s).busy = s.busy := rfl
@[simp] theorem pcg32Unit_setCtx_fault (x : Pcg32) (s : State) : (pcg32Unit.setCtx x s).fault = s.fault := rfl
@[simp] theorem pcg32Unit_setCtx_rj (x : Pcg32) (s : State) : (pcg32Unit.setCtx x s).rj = s.rj := rfl
@[simp] theorem pcg32Unit_setCtx_code (x : Pcg32) (s : State) : (pcg32Unit.setCtx x s).code = s.code := rfl
@[simp] theorem pcg32Unit_setCtx_validMt32 (x : Pcg32) (s : State) : (pcg32Unit.setCtx x s).validMt32 = s.validMt32 := rfl
@[simp] theorem pcg32Unit_setCtx_validMt64 (x : Pcg32) (s : State) : (pcg32Unit.setCtx x s).validMt64 = s.validMt64 := rfl
@[simp] theorem pcg32Unit_setCtx_validPcg32 (x : Pcg32) (s : State) : (pcg32Unit.setCtx x s).validPcg32 = s.validPcg32 := rfl
@[simp] theorem pcg32Unit_setCtx_validPcg64 (x : Pcg32) (s : State) : (pcg32Unit.setCtx x s).validPcg64 = s.validPcg64 := rfl
@[simp] theorem pcg32Unit_setCtx_buf (x : Pcg32) (s : State) : (pcg32Unit.setCtx x s).buf = s.buf := rfl
@[simp] theorem pcg32Unit_setCtx_mt32 (x : Pcg32) (s : State) : (pcg32Unit.setCtx x s).mt32 = s.mt32 := rfl
@[simp] theorem pcg32Unit_setCtx_mt64 (x : Pcg32) (s : State) : (pcg32Unit.setCtx x s).mt64 = s.mt64 := rfl
@[simp] theorem pcg32Unit_setCtx_pcg32 (x : Pcg32) (s : State) : (pcg32Unit.setCtx x s).pcg32 = x := rfl
@[simp] theorem pcg32Unit_setCtx_pcg64 (x : Pcg32) (s : State) : (pcg32Unit.setCtx x s).pcg64 = s.pcg64 := rfl
@[simp] theorem pcg32Unit_setCtx_draws (x : Pcg32) (s : State) : (pcg32Unit.setCtx x s).draws = s.draws := rfl
@[simp] theorem pcg32Unit_setCtx_hostProg (x : Pcg32) (s : State) : (pcg32Unit.setCtx x s).hostProg = s.hostProg := rfl
@[simp] theorem pcg32Unit_setCtx_hostAt (x : Pcg32) (s : State) : (pcg32Unit.setCtx x s).hostAt = s.hostAt := rfl
@[simp] theorem pcg32Unit_setCtx_hostVars (x : Pcg32) (s : State) : (pcg32Unit.setCtx x s).hostVars = s.hostVars := rfl
@[simp] theorem pcg32Unit_setCtx_turns (x : Pcg32) (s : State) : (pcg32Unit.setCtx x s).turns = s.turns := rfl

/-! ### construct_pcg32Unit -/

@[simp] theorem construct_pcg32Unit_a (x : Pcg32) (s : State) : (construct pcg32Unit x s).a = s.a := rfl
@[simp] theorem construct_pcg32Unit_b (x : Pcg32) (s : State) : (construct pcg32Unit x s).b = s.b := rfl
@[simp] theorem construct_pcg32Unit_r (x : Pcg32) (s : State) : (construct pcg32Unit x s).r = s.r := rfl
@[simp] theorem construct_pcg32Unit_c (x : Pcg32) (s : State) : (construct pcg32Unit x s).c = s.c := rfl
@[simp] theorem construct_pcg32Unit_len (x : Pcg32) (s : State) : (construct pcg32Unit x s).len = s.len := rfl
@[simp] theorem construct_pcg32Unit_pending (x : Pcg32) (s : State) : (construct pcg32Unit x s).pending = s.pending := rfl
@[simp] theorem construct_pcg32Unit_busy (x : Pcg32) (s : State) : (construct pcg32Unit x s).busy = s.busy := rfl
@[simp] theorem construct_pcg32Unit_fault (x : Pcg32) (s : State) : (construct pcg32Unit x s).fault = s.fault := rfl
@[simp] theorem construct_pcg32Unit_rj (x : Pcg32) (s : State) : (construct pcg32Unit x s).rj = s.rj := rfl
@[simp] theorem construct_pcg32Unit_code (x : Pcg32) (s : State) : (construct pcg32Unit x s).code = s.code := rfl
@[simp] theorem construct_pcg32Unit_validMt32 (x : Pcg32) (s : State) : (construct pcg32Unit x s).validMt32 = s.validMt32 := rfl
@[simp] theorem construct_pcg32Unit_validMt64 (x : Pcg32) (s : State) : (construct pcg32Unit x s).validMt64 = s.validMt64 := rfl
@[simp] theorem construct_pcg32Unit_validPcg32 (x : Pcg32) (s : State) : (construct pcg32Unit x s).validPcg32 = true := rfl
@[simp] theorem construct_pcg32Unit_validPcg64 (x : Pcg32) (s : State) : (construct pcg32Unit x s).validPcg64 = s.validPcg64 := rfl
@[simp] theorem construct_pcg32Unit_buf (x : Pcg32) (s : State) : (construct pcg32Unit x s).buf = s.buf := rfl
@[simp] theorem construct_pcg32Unit_mt32 (x : Pcg32) (s : State) : (construct pcg32Unit x s).mt32 = s.mt32 := rfl
@[simp] theorem construct_pcg32Unit_mt64 (x : Pcg32) (s : State) : (construct pcg32Unit x s).mt64 = s.mt64 := rfl
@[simp] theorem construct_pcg32Unit_pcg32 (x : Pcg32) (s : State) : (construct pcg32Unit x s).pcg32 = x := rfl
@[simp] theorem construct_pcg32Unit_pcg64 (x : Pcg32) (s : State) : (construct pcg32Unit x s).pcg64 = s.pcg64 := rfl
@[simp] theorem construct_pcg32Unit_draws (x : Pcg32) (s : State) : (construct pcg32Unit x s).draws = s.draws := rfl
@[simp] theorem construct_pcg32Unit_hostProg (x : Pcg32) (s : State) : (construct pcg32Unit x s).hostProg = s.hostProg := rfl
@[simp] theorem construct_pcg32Unit_hostAt (x : Pcg32) (s : State) : (construct pcg32Unit x s).hostAt = s.hostAt := rfl
@[simp] theorem construct_pcg32Unit_hostVars (x : Pcg32) (s : State) : (construct pcg32Unit x s).hostVars = s.hostVars := rfl
@[simp] theorem construct_pcg32Unit_turns (x : Pcg32) (s : State) : (construct pcg32Unit x s).turns = s.turns := rfl

/-! ### pcg64Unit_setCtx -/

@[simp] theorem pcg64Unit_setCtx_a (x : Pcg64) (s : State) : (pcg64Unit.setCtx x s).a = s.a := rfl
@[simp] theorem pcg64Unit_setCtx_b (x : Pcg64) (s : State) : (pcg64Unit.setCtx x s).b = s.b := rfl
@[simp] theorem pcg64Unit_setCtx_r (x : Pcg64) (s : State) : (pcg64Unit.setCtx x s).r = s.r := rfl
@[simp] theorem pcg64Unit_setCtx_c (x : Pcg64) (s : State) : (pcg64Unit.setCtx x s).c = s.c := rfl
@[simp] theorem pcg64Unit_setCtx_len (x : Pcg64) (s : State) : (pcg64Unit.setCtx x s).len = s.len := rfl
@[simp] theorem pcg64Unit_setCtx_pending (x : Pcg64) (s : State) : (pcg64Unit.setCtx x s).pending = s.pending := rfl
@[simp] theorem pcg64Unit_setCtx_busy (x : Pcg64) (s : State) : (pcg64Unit.setCtx x s).busy = s.busy := rfl
@[simp] theorem pcg64Unit_setCtx_fault (x : Pcg64) (s : State) : (pcg64Unit.setCtx x s).fault = s.fault := rfl
@[simp] theorem pcg64Unit_setCtx_rj (x : Pcg64) (s : State) : (pcg64Unit.setCtx x s).rj = s.rj := rfl
@[simp] theorem pcg64Unit_setCtx_code (x : Pcg64) (s : State) : (pcg64Unit.setCtx x s).code = s.code := rfl
@[simp] theorem pcg64Unit_setCtx_validMt32 (x : Pcg64) (s : State) : (pcg64Unit.setCtx x s).validMt32 = s.validMt32 := rfl
@[simp] theorem pcg64Unit_setCtx_validMt64 (x : Pcg64) (s : State) : (pcg64Unit.setCtx x s).validMt64 = s.validMt64 := rfl
@[simp] theorem pcg64Unit_setCtx_validPcg32 (x : Pcg64) (s : State) : (pcg64Unit.setCtx x s).validPcg32 = s.validPcg32 := rfl
@[simp] theorem pcg64Unit_setCtx_validPcg64 (x : Pcg64) (s : State) : (pcg64Unit.setCtx x s).validPcg64 = s.validPcg64 := rfl
@[simp] theorem pcg64Unit_setCtx_buf (x : Pcg64) (s : State) : (pcg64Unit.setCtx x s).buf = s.buf := rfl
@[simp] theorem pcg64Unit_setCtx_mt32 (x : Pcg64) (s : State) : (pcg64Unit.setCtx x s).mt32 = s.mt32 := rfl
@[simp] theorem pcg64Unit_setCtx_mt64 (x : Pcg64) (s : State) : (pcg64Unit.setCtx x s).mt64 = s.mt64 := rfl
@[simp] theorem pcg64Unit_setCtx_pcg32 (x : Pcg64) (s : State) : (pcg64Unit.setCtx x s).pcg32 = s.pcg32 := rfl
@[simp] theorem pcg64Unit_setCtx_pcg64 (x : Pcg64) (s : State) : (pcg64Unit.setCtx x s).pcg64 = x := rfl
@[simp] theorem pcg64Unit_setCtx_draws (x : Pcg64) (s : State) : (pcg64Unit.setCtx x s).draws = s.draws := rfl
@[simp] theorem pcg64Unit_setCtx_hostProg (x : Pcg64) (s : State) : (pcg64Unit.setCtx x s).hostProg = s.hostProg := rfl
@[simp] theorem pcg64Unit_setCtx_hostAt (x : Pcg64) (s : State) : (pcg64Unit.setCtx x s).hostAt = s.hostAt := rfl
@[simp] theorem pcg64Unit_setCtx_hostVars (x : Pcg64) (s : State) : (pcg64Unit.setCtx x s).hostVars = s.hostVars := rfl
@[simp] theorem pcg64Unit_setCtx_turns (x : Pcg64) (s : State) : (pcg64Unit.setCtx x s).turns = s.turns := rfl

/-! ### construct_pcg64Unit -/

@[simp] theorem construct_pcg64Unit_a (x : Pcg64) (s : State) : (construct pcg64Unit x s).a = s.a := rfl
@[simp] theorem construct_pcg64Unit_b (x : Pcg64) (s : State) : (construct pcg64Unit x s).b = s.b := rfl
@[simp] theorem construct_pcg64Unit_r (x : Pcg64) (s : State) : (construct pcg64Unit x s).r = s.r := rfl
@[simp] theorem construct_pcg64Unit_c (x : Pcg64) (s : State) : (construct pcg64Unit x s).c = s.c := rfl
@[simp] theorem construct_pcg64Unit_len (x : Pcg64) (s : State) : (construct pcg64Unit x s).len = s.len := rfl
@[simp] theorem construct_pcg64Unit_pending (x : Pcg64) (s : State) : (construct pcg64Unit x s).pending = s.pending := rfl
@[simp] theorem construct_pcg64Unit_busy (x : Pcg64) (s : State) : (construct pcg64Unit x s).busy = s.busy := rfl
@[simp] theorem construct_pcg64Unit_fault (x : Pcg64) (s : State) : (construct pcg64Unit x s).fault = s.fault := rfl
@[simp] theorem construct_pcg64Unit_rj (x : Pcg64) (s : State) : (construct pcg64Unit x s).rj = s.rj := rfl
@[simp] theorem construct_pcg64Unit_code (x : Pcg64) (s : State) : (construct pcg64Unit x s).code = s.code := rfl
@[simp] theorem construct_pcg64Unit_validMt32 (x : Pcg64) (s : State) : (construct pcg64Unit x s).validMt32 = s.validMt32 := rfl
@[simp] theorem construct_pcg64Unit_validMt64 (x : Pcg64) (s : State) : (construct pcg64Unit x s).validMt64 = s.validMt64 := rfl
@[simp] theorem construct_pcg64Unit_validPcg32 (x : Pcg64) (s : State) : (construct pcg64Unit x s).validPcg32 = s.validPcg32 := rfl
@[simp] theorem construct_pcg64Unit_validPcg64 (x : Pcg64) (s : State) : (construct pcg64Unit x s).validPcg64 = true := rfl
@[simp] theorem construct_pcg64Unit_buf (x : Pcg64) (s : State) : (construct pcg64Unit x s).buf = s.buf := rfl
@[simp] theorem construct_pcg64Unit_mt32 (x : Pcg64) (s : State) : (construct pcg64Unit x s).mt32 = s.mt32 := rfl
@[simp] theorem construct_pcg64Unit_mt64 (x : Pcg64) (s : State) : (construct pcg64Unit x s).mt64 = s.mt64 := rfl
@[simp] theorem construct_pcg64Unit_pcg32 (x : Pcg64) (s : State) : (construct pcg64Unit x s).pcg32 = s.pcg32 := rfl
@[simp] theorem construct_pcg64Unit_pcg64 (x : Pcg64) (s : State) : (construct pcg64Unit x s).pcg64 = x := rfl
@[simp] theorem construct_pcg64Unit_draws (x : Pcg64) (s : State) : (construct pcg64Unit x s).draws = s.draws := rfl
@[simp] theorem construct_pcg64Unit_hostProg (x : Pcg64) (s : State) : (construct pcg64Unit x s).hostProg = s.hostProg := rfl
@[simp] theorem construct_pcg64Unit_hostAt (x : Pcg64) (s : State) : (construct pcg64Unit x s).hostAt = s.hostAt := rfl
@[simp] theorem construct_pcg64Unit_hostVars (x : Pcg64) (s : State) : (construct pcg64Unit x s).hostVars = s.hostVars := rfl
@[simp] theorem construct_pcg64Unit_turns (x : Pcg64) (s : State) : (construct pcg64Unit x s).turns = s.turns := rfl

/-! ### The units -/

@[simp] theorem mt32Unit_ctx (s : State) : mt32Unit.ctx s = s.mt32 := rfl
@[simp] theorem mt32Unit_valid (s : State) : mt32Unit.valid s = s.validMt32 := rfl
@[simp] theorem mt64Unit_ctx (s : State) : mt64Unit.ctx s = s.mt64 := rfl
@[simp] theorem mt64Unit_valid (s : State) : mt64Unit.valid s = s.validMt64 := rfl
@[simp] theorem pcg32Unit_ctx (s : State) : pcg32Unit.ctx s = s.pcg32 := rfl
@[simp] theorem pcg32Unit_valid (s : State) : pcg32Unit.valid s = s.validPcg32 := rfl
@[simp] theorem pcg64Unit_ctx (s : State) : pcg64Unit.ctx s = s.pcg64 := rfl
@[simp] theorem pcg64Unit_valid (s : State) : pcg64Unit.valid s = s.validPcg64 := rfl

end Sys2Proof.Machine
end

