-- ==== Sys2Proof/Laws/Ops.lean ====
section
/-! SUPPORT. What each shared operation answers, one lemma for each way it can go: a proof about a command cites
these and unfolds no frame. -/

namespace Sys2Proof.Machine

variable {γ : Type} (u : GenUnit γ)

/-! ### Recording a fault -/

theorem recordFault_of_code {s : State} (code : FaultCode) (h : s.code ≠ .none) :
    recordFault code s = { s with fault := true } := by
  rw [recordFault, if_neg h]

theorem recordFault_of_none {s : State} (code : FaultCode) (h : s.code = .none) :
    recordFault code s = { s with fault := true, code := code } := by
  rw [recordFault, if_pos h]

theorem raiseFault_eq (code : FaultCode) (s : State) :
    raiseFault code s = { s with
      fault := true, code := if s.code = .none then code else s.code, rj := false, busy := false } := rfl

theorem recordFault_code_ne_none {code : FaultCode} (h : code ≠ .none) (s : State) :
    (recordFault code s).code ≠ .none := by
  rw [recordFault]
  dsimp only
  split
  · exact h
  · assumption

theorem raiseFault_code_ne_none {code : FaultCode} (h : code ≠ .none) (s : State) :
    (raiseFault code s).code ≠ .none := recordFault_code_ne_none h s

/-! ### The context check and the frames over it -/

theorem checkValid_of_valid {s : State} (e : State) (h : u.valid s = true) : checkValid u s e = e :=
  if_pos h

theorem checkValid_of_invalid {s : State} (e : State) (h : u.valid s = false) :
    checkValid u s e = raiseFault .noseed s := by
  rw [checkValid, h]
  rfl

theorem drawCommand_of_valid {n : Nat} {s : State} (draw : γ → BitVec n × γ) (h : u.valid s = true) :
    drawCommand u draw s = complete (setR (draw (u.ctx s)).1 (u.setCtx (draw (u.ctx s)).2 s)) :=
  checkValid_of_valid u _ h

theorem drawCommand_of_invalid {n : Nat} {s : State} (draw : γ → BitVec n × γ) (h : u.valid s = false) :
    drawCommand u draw s = raiseFault .noseed s :=
  checkValid_of_invalid u _ h

theorem moveCommand_of_valid {s : State} (f : γ → γ) (h : u.valid s = true) :
    moveCommand u f s = complete (u.setCtx (f (u.ctx s)) s) :=
  checkValid_of_valid u _ h

theorem moveCommand_of_invalid {s : State} (f : γ → γ) (h : u.valid s = false) :
    moveCommand u f s = raiseFault .noseed s :=
  checkValid_of_invalid u _ h

theorem saveCommand_of_valid {s : State} (len : Nat) (enc : γ → List Byte) (h : u.valid s = true) :
    saveCommand u len enc s
      = complete { memWrite 0 (enc (u.ctx s)) s with len := BitVec.ofNat 16 len } :=
  checkValid_of_valid u _ h

theorem saveCommand_of_invalid {s : State} (len : Nat) (enc : γ → List Byte) (h : u.valid s = false) :
    saveCommand u len enc s = raiseFault .noseed s :=
  checkValid_of_invalid u _ h

/-! ### Constructing frames -/

theorem seedeCommand_of_failure {s : State} (answer : Nat → γ) (h : entropyFailure s.draws = true) :
    seedeCommand u answer s = raiseFault .entropy { s with draws := s.draws + 1 } := by
  rw [seedeCommand, if_pos h]

theorem seedeCommand_of_answer {s : State} (answer : Nat → γ) (h : entropyFailure s.draws = false) :
    seedeCommand u answer s = complete (construct u (answer s.draws) { s with draws := s.draws + 1 }) := by
  rw [seedeCommand, h]
  rfl

theorem seedaCommand_of_bad {s : State} (W size maxLen : Nat) (init : List (BitVec W) → γ)
    (h : s.a.toNat = 0 ∨ maxLen < s.a.toNat) :
    seedaCommand u W size maxLen init s = raiseFault .precond s :=
  if_pos h

theorem seedaCommand_of_admitted {s : State} (W size maxLen : Nat) (init : List (BitVec W) → γ)
    (h1 : 1 ≤ s.a.toNat) (h2 : s.a.toNat ≤ maxLen) :
    seedaCommand u W size maxLen init s
      = complete (construct u (init (leWords W size s.a.toNat (memRead 0 (size * s.a.toNat) s).1))
          (memRead 0 (size * s.a.toNat) s).2) :=
  if_neg (by simp only [opKeyLength]; omega)

theorem loadCommand_of_len_ne {s : State} (len : Nat) (dec : List Byte → Option γ) (h : s.len.toNat ≠ len) :
    loadCommand u len dec s = completeRejected s :=
  if_pos h

theorem loadCommand_of_invalid {s : State} (len : Nat) (dec : List Byte → Option γ) (h : s.len.toNat = len)
    (hd : dec (memRead 0 len s).1 = none) :
    loadCommand u len dec s = completeRejected (memRead 0 len s).2 := by
  rw [loadCommand, if_neg (not_not_intro h)]
  simp only [hd]

theorem loadCommand_of_accepted {s : State} (len : Nat) (dec : List Byte → Option γ) (c : γ)
    (h : s.len.toNat = len) (hd : dec (memRead 0 len s).1 = some c) :
    loadCommand u len dec s = complete (construct u c (memRead 0 len s).2) := by
  rw [loadCommand, if_neg (not_not_intro h)]
  simp only [hd]

/-! ### Every way each frame can go -/

theorem drawCommand_cases {n : Nat} (draw : γ → BitVec n × γ) (s : State) :
    (u.valid s = true ∧
      drawCommand u draw s = complete (setR (draw (u.ctx s)).1 (u.setCtx (draw (u.ctx s)).2 s))) ∨
    (u.valid s = false ∧ drawCommand u draw s = raiseFault .noseed s) := by
  rcases h : u.valid s
  · exact .inr ⟨rfl, drawCommand_of_invalid u draw h⟩
  · exact .inl ⟨rfl, drawCommand_of_valid u draw h⟩

theorem moveCommand_cases (f : γ → γ) (s : State) :
    (u.valid s = true ∧ moveCommand u f s = complete (u.setCtx (f (u.ctx s)) s)) ∨
    (u.valid s = false ∧ moveCommand u f s = raiseFault .noseed s) := by
  rcases h : u.valid s
  · exact .inr ⟨rfl, moveCommand_of_invalid u f h⟩
  · exact .inl ⟨rfl, moveCommand_of_valid u f h⟩

theorem saveCommand_cases (len : Nat) (enc : γ → List Byte) (s : State) :
    (u.valid s = true ∧ saveCommand u len enc s
      = complete { memWrite 0 (enc (u.ctx s)) s with len := BitVec.ofNat 16 len }) ∨
    (u.valid s = false ∧ saveCommand u len enc s = raiseFault .noseed s) := by
  rcases h : u.valid s
  · exact .inr ⟨rfl, saveCommand_of_invalid u len enc h⟩
  · exact .inl ⟨rfl, saveCommand_of_valid u len enc h⟩

theorem seedeCommand_cases (answer : Nat → γ) (s : State) :
    (entropyFailure s.draws = true ∧
      seedeCommand u answer s = raiseFault .entropy { s with draws := s.draws + 1 }) ∨
    (entropyFailure s.draws = false ∧
      seedeCommand u answer s = complete (construct u (answer s.draws) { s with draws := s.draws + 1 })) := by
  rcases h : entropyFailure s.draws
  · exact .inr ⟨rfl, seedeCommand_of_answer u answer h⟩
  · exact .inl ⟨rfl, seedeCommand_of_failure u answer h⟩

theorem seedaCommand_cases (W size maxLen : Nat) (init : List (BitVec W) → γ) (s : State) :
    ((s.a.toNat = 0 ∨ maxLen < s.a.toNat) ∧
      seedaCommand u W size maxLen init s = raiseFault .precond s) ∨
    ((1 ≤ s.a.toNat ∧ s.a.toNat ≤ maxLen) ∧
      seedaCommand u W size maxLen init s
        = complete (construct u (init (leWords W size s.a.toNat (memRead 0 (size * s.a.toNat) s).1))
            (memRead 0 (size * s.a.toNat) s).2)) := by
  by_cases h : s.a.toNat = 0 ∨ maxLen < s.a.toNat
  · exact .inl ⟨h, seedaCommand_of_bad u W size maxLen init h⟩
  · exact .inr ⟨by omega, seedaCommand_of_admitted u W size maxLen init (by omega) (by omega)⟩

theorem loadCommand_cases (len : Nat) (dec : List Byte → Option γ) (s : State) :
    (s.len.toNat ≠ len ∧ loadCommand u len dec s = completeRejected s) ∨
    (s.len.toNat = len ∧ dec (memRead 0 len s).1 = none ∧
      loadCommand u len dec s = completeRejected (memRead 0 len s).2) ∨
    (∃ c, s.len.toNat = len ∧ dec (memRead 0 len s).1 = some c ∧
      loadCommand u len dec s = complete (construct u c (memRead 0 len s).2)) := by
  by_cases h : s.len.toNat = len
  · cases hd : dec (memRead 0 len s).1 with
    | none => exact .inr (.inl ⟨h, rfl, loadCommand_of_invalid u len dec h hd⟩)
    | some c => exact .inr (.inr ⟨c, h, rfl, loadCommand_of_accepted u len dec c h hd⟩)
  · exact .inl ⟨h, loadCommand_of_len_ne u len dec h⟩

/-! ### MT32 JUMP -/

theorem execMt32Jump_of_invalid {s : State} (h : s.validMt32 = false) :
    execMt32Jump s = .next (raiseFault .noseed s) :=
  congrArg Host.Outcome.next (checkValid_of_invalid mt32Unit _ h)

theorem execMt32Jump_of_negative {s : State} (h : s.validMt32 = true) (hn : opJumpCount s < 0) :
    execMt32Jump s = .next (raiseFault .precond s) := by
  rw [execMt32Jump, checkValid_of_valid mt32Unit _ h, if_pos hn]

theorem execMt32Jump_of_count {s : State} (h : s.validMt32 = true) (hn : 0 ≤ opJumpCount s) :
    execMt32Jump s
      = .next (complete { s with mt32 := jumpMt32 s.mt32 (opJumpCount s).toNat }) := by
  rw [execMt32Jump, checkValid_of_valid mt32Unit _ h, if_neg (by omega)]

/-- A count below 2^63 is not negative (00_scope.md R12). -/
theorem opJumpCount_of_lt {s : State} (h : s.a.toNat % 2 ^ 64 < 2 ^ 63) :
    opJumpCount s = (s.a.toNat % 2 ^ 64 : Nat) := by
  have e : (opA64 s).toNat = s.a.toNat % 2 ^ 64 := by
    rw [opA64, BitVec.extractLsb'_toNat, Nat.shiftRight_zero]
  rw [opJumpCount, sint, e, if_pos h]

/-- A count from 2^63 on is negative (00_scope.md R12). -/
theorem opJumpCount_of_ge {s : State} (h : 2 ^ 63 ≤ s.a.toNat % 2 ^ 64) : opJumpCount s < 0 := by
  have e : (opA64 s).toNat = s.a.toNat % 2 ^ 64 := by
    rw [opA64, BitVec.extractLsb'_toNat, Nat.shiftRight_zero]
  rw [opJumpCount, sint, e, if_neg (Nat.not_lt.2 h)]
  omega

/-- A negative count has bit 63 set (00_scope.md R12). -/
theorem opJumpCount_negative {s : State} (h : opJumpCount s < 0) : 2 ^ 63 ≤ s.a.toNat % 2 ^ 64 := by
  rcases Nat.lt_or_ge (s.a.toNat % 2 ^ 64) (2 ^ 63) with hl | hg
  · rw [opJumpCount_of_lt hl] at h
    omega
  · exact hg

/-! ### Drawing -/

@[simp] theorem ctxAfter_zero {ω : Type} (gen : γ → ω × γ) (c : γ) : ctxAfter gen 0 c = c := rfl
@[simp] theorem ctxAfter_succ {ω : Type} (gen : γ → ω × γ) (n : Nat) (c : γ) :
    ctxAfter gen (n + 1) c = ctxAfter gen n (gen c).2 := rfl

theorem next64Pair_eq (gen : γ → Word32 × γ) (c : γ) :
    next64Pair gen c = (outputStream gen c 0 ++ outputStream gen c 1, ctxAfter gen 2 c) := rfl

theorem next128_pair_eq (gen : γ → Word32 × γ) (c : γ) :
    next128 (next64Pair gen) c
      = ((outputStream gen c 0 ++ outputStream gen c 1) ++ (outputStream gen c 2 ++ outputStream gen c 3),
          ctxAfter gen 4 c) := rfl

theorem next128_native_eq (gen : γ → Word64 × γ) (c : γ) :
    next128 (next64Native gen) c = (outputStream gen c 0 ++ outputStream gen c 1, ctxAfter gen 2 c) := rfl

/-! ### The blobs -/

theorem length_encMt32 (c : Mt32) : (encMt32 c).length = 2498 := length_mtBlob 4 c
theorem length_encMt64 (c : Mt64) : (encMt64 c).length = 2498 := length_mtBlob 8 c
theorem length_encPcg32 (c : Pcg32) : (encPcg32 c).length = 16 := length_pcgBlob 8 c
theorem length_encPcg64 (c : Pcg64) : (encPcg64 c).length = 32 := length_pcgBlob 16 c

/-- A PCG blob's increment is odd after LOAD (43_pcg.md R311). -/
theorem pcgOfBlob_odd {W : Nat} (hW : 0 < W) (size : Nat) (bs : List Byte) :
    (pcgOfBlob W size bs).inc.getLsbD 0 = true := by
  simp [pcgOfBlob, loadInc, Config.loadIncMode, hW]

theorem oddInc_odd {W : Nat} (hW : 0 < W) (c : PcgCtx W) : (oddInc c).inc.getLsbD 0 = true := by
  simp [oddInc, hW]

theorem pcgSeed_odd {W : Nat} (hW : 0 < W) (mul x q : BitVec W) :
    (pcgSeed mul x q).inc.getLsbD 0 = true := by
  simp [pcgSeed, pcgStep, hW]

@[simp] theorem pcgStep_inc {W : Nat} (mul : BitVec W) (c : PcgCtx W) : (pcgStep mul c).inc = c.inc := rfl
@[simp] theorem pcgAdvance_inc {W : Nat} (mul : BitVec W) (c : PcgCtx W) (n : BitVec W) :
    (pcgAdvance mul c n).inc = c.inc := rfl
@[simp] theorem genPcg32_inc (c : Pcg32) : (genPcg32 c).2.inc = c.inc := by
  unfold genPcg32
  exact pcgStep_inc mul64 c
@[simp] theorem genPcg64_inc (c : Pcg64) : (genPcg64 c).2.inc = c.inc := by
  unfold genPcg64
  exact pcgStep_inc mul128 c

end Sys2Proof.Machine
end

