-- ==== Sys2Proof/Laws/Step.lean ====
section
/-! SUPPORT. What a port access, a host statement and a step can do, one lemma for each way it can go. -/

namespace Sys2Proof.Machine

/-! ### Writes -/

theorem issue_of_fault {s : State} (v : Word32) (h : s.fault = true) : issue v s = s := if_pos h

theorem issue_of_busy {s : State} (v : Word32) (hf : s.fault = false) (h : s.busy = true) :
    issue v s = recordFault .hazard s := by
  rw [issue, hf, h]
  rfl

theorem issue_of_idle {s : State} (v : Word32) (hf : s.fault = false) (h : s.busy = false) :
    issue v s = { s with pending := v, busy := true } := by
  rw [issue, hf, h]
  rfl

theorem writeWhenIdle_of_busy {s : State} (t : State) (h : s.busy = true) :
    writeWhenIdle s t = recordFault .hazard s := if_pos h

theorem writeWhenIdle_of_idle {s : State} (t : State) (h : s.busy = false) : writeWhenIdle s t = t := by
  rw [writeWhenIdle, h]
  rfl

/-- Everything a port write can do. -/
theorem writePort_cases (p : PortReg) (v : Word32) (s : State) :
    writePort p v s = s ∨
    (s.busy = true ∧ writePort p v s = recordFault .hazard s) ∨
    (s.busy = false ∧
      ((p = .cmd ∧ s.fault = false ∧ writePort p v s = { s with pending := v, busy := true }) ∨
        (∃ x, writePort p v s = { s with len := x }) ∨
        (∃ x, writePort p v s = { s with c := x }) ∨
        (∃ x, writePort p v s = { s with a := x }) ∨
        (∃ x, writePort p v s = { s with b := x }) ∨
        ∃ k, p = .buf k ∧ writePort p v s = memWrite (4 * k) (leBytes 4 v.toNat) s)) := by
  refine (Classical.em (writePort p v s = s)).imp id fun hne => ?_
  rcases Bool.eq_false_or_eq_true s.busy with hb | hb
  · refine .inl ⟨hb, ?_⟩
    cases p with
    | cmd =>
      rcases Bool.eq_false_or_eq_true s.fault with hf | hf
      · exact absurd (issue_of_fault v hf) hne
      · exact issue_of_busy v hf hb
    | status | r _ | reserved => exact absurd rfl hne
    | len | flags | a _ | b _ | buf _ => exact writeWhenIdle_of_busy _ hb
  · refine .inr ⟨hb, ?_⟩
    cases p with
    | cmd =>
      rcases Bool.eq_false_or_eq_true s.fault with hf | hf
      · exact absurd (issue_of_fault v hf) hne
      · exact .inl ⟨rfl, hf, issue_of_idle v hf hb⟩
    | len => exact .inr (.inl ⟨_, writeWhenIdle_of_idle _ hb⟩)
    | flags => exact .inr (.inr (.inl ⟨_, writeWhenIdle_of_idle _ hb⟩))
    | a k => exact .inr (.inr (.inr (.inl ⟨_, writeWhenIdle_of_idle _ hb⟩)))
    | b k => exact .inr (.inr (.inr (.inr (.inl ⟨_, writeWhenIdle_of_idle _ hb⟩))))
    | buf k => exact .inr (.inr (.inr (.inr (.inr ⟨k, rfl, writeWhenIdle_of_idle _ hb⟩))))
    | status | r _ | reserved => exact absurd rfl hne

/-- A BUF port word of the map lies inside BUF (20_memory.md R51). -/
theorem portReg_buf_lt {off k : Nat} (h : portReg off = .buf k) : k < 625 := by
  unfold portReg at h
  repeat' split at h
  all_goals first | contradiction | skip
  injection h with h
  omega

/-! ### Reads -/

/-- A read changes the count of free values at most (20_memory.md R57). -/
theorem readPort_snd (p : PortReg) (s : State) :
    (readPort p s).2 = { s with draws := (readPort p s).2.draws } := by
  cases p <;> first
    | rfl
    | (simp only [readPort, readWhenIdle]; split <;> rfl)

/-! ### Host variables -/

theorem lookup_filter_ne (l : List (Nat × Nat)) {h x : Nat} (hx : x ≠ h) :
    List.lookup x (l.filter fun p => p.1 != h) = List.lookup x l := by
  induction l with
  | nil => rfl
  | cons p l ih =>
    obtain ⟨a, b⟩ := p
    by_cases e : a = h
    · simp [e, ih, List.lookup_cons, beq_false_of_ne hx]
    · simp [e, ih, List.lookup_cons]

/-- An assignment sets its variable and no other (30_encoding.md R87). -/
@[simp] theorem hostVar_setHostVar (h v x : Nat) (s : State) :
    hostVar (setHostVar h v s) x = if x = h then v else hostVar s x := by
  unfold hostVar setHostVar
  by_cases e : x = h
  · simp [e]
  · simp [e, List.lookup_cons, lookup_filter_ne _ e, beq_false_of_ne e]

@[simp] theorem hostVar_hostNextStmt (s : State) (x : Nat) : hostVar (hostNextStmt s) x = hostVar s x := rfl

@[simp] theorem hostVar_issue (v : Word32) (s : State) (x : Nat) : hostVar (issue v s) x = hostVar s x := by
  unfold issue raiseHazard
  (repeat' split) <;> rfl

/-- An expression reads the host variables only. -/
theorem evalHostExpr_congr {s t : State} (h : s.hostVars = t.hostVars) (e : HostExpr) :
    evalHostExpr s e = evalHostExpr t e := by
  induction e with
  | lit n => rfl
  | var x => simp only [evalHostExpr, hostVar, h]
  | varAt base index ih => simp only [evalHostExpr, hostVar, h, ih]
  | add x y hx hy => simp only [evalHostExpr, hx, hy]
  | band x y hx hy => simp only [evalHostExpr, hx, hy]
  | slice x hi lo ih => simp only [evalHostExpr, ih]
  | cat x width y hx hy => simp only [evalHostExpr, hx, hy]

/-! ### The host's statement -/

/-- Everything a host statement can do: a write, a read or an assignment and then the next place, a jump, or the
reset and then the next place. -/
theorem hostStmtStep_cases (st : HostStmt) (s : State) :
    (∃ p v off w e, st = .write w off e ∧ p = portReg off ∧
      hostStmtStep st s = hostNextStmt (writePort p v s)) ∨
    (∃ h x d, hostStmtStep st s = hostNextStmt (setHostVar h x { s with draws := d })) ∨
    (∃ target, hostStmtStep st s = { s with hostAt := target }) ∨
    (st = .reset ∧ hostStmtStep st s = hostNextStmt (resetBlock s)) := by
  cases st with
  | write w off e => exact .inl ⟨_, _, off, w, e, rfl, rfl, rfl⟩
  | read w off h =>
    refine .inr (.inl ⟨h, (readPort (portReg off) s).1.toNat, (readPort (portReg off) s).2.draws, ?_⟩)
    rw [hostStmtStep, ← readPort_snd]
  | assignAt base index e =>
    exact .inr (.inl ⟨base + evalHostExpr s index, evalHostExpr s e, s.draws, rfl⟩)
  | assign h e => exact .inr (.inl ⟨h, evalHostExpr s e, s.draws, rfl⟩)
  | ifGoto cond target =>
    rw [hostStmtStep]
    split
    · exact .inr (.inr (.inl ⟨target, rfl⟩))
    · exact .inr (.inr (.inl ⟨s.hostAt + 1, rfl⟩))
  | goto target => exact .inr (.inr (.inl ⟨target, rfl⟩))
  | reset => exact .inr (.inr (.inr ⟨rfl, rfl⟩))

/-! ### The step -/

theorem step_of_engine {s : State} (h : nextAgent s = some .engine) : step s = engineStep (dropTurn s) := by
  rw [step, h]

theorem step_of_host {s : State} (h : nextAgent s = some .host) : step s = hostStep (dropTurn s) := by
  rw [step, h]

theorem step_of_none {s : State} (h : nextAgent s = none) : step s = noStep s := by
  rw [step, h]

/-- Everything a step that answers a next state can do. -/
theorem step_cases {s t : State} (h : step s = .next t) :
    (nextAgent s = some .engine ∧ ∃ i, decode s.pending = .command i ∧ exec i (dropTurn s) = .next t) ∨
    (nextAgent s = some .engine ∧ t = raiseFault .illegal (dropTurn s)) ∨
    (nextAgent s = some .host ∧ ∃ st, hostStmt s = some st ∧ t = hostStmtStep st (dropTurn s)) ∨
    (nextAgent s = none ∧ t = s) := by
  cases hn : nextAgent s with
  | none =>
    rw [step_of_none hn, noStep] at h
    split at h
    · exact absurd h (by simp)
    · exact .inr (.inr (.inr ⟨rfl, (Host.Outcome.next.inj h).symm⟩))
  | some ag =>
    cases ag with
    | engine =>
      rw [step_of_engine hn, engineStep] at h
      split at h
      · rename_i i hd
        exact .inl ⟨rfl, i, hd, h⟩
      · exact .inr (.inl ⟨rfl, (Host.Outcome.next.inj h).symm⟩)
    | host =>
      rw [step_of_host hn, hostStep] at h
      refine .inr (.inr (.inl ⟨rfl, ?_⟩))
      cases hst : hostStmt s with
      | none =>
        exfalso
        have hh : hostHasStep s = false := by rw [hostHasStep, hst]
        rw [nextAgent, hh] at hn
        revert hn
        cases s.busy <;> simp
      | some st =>
        have hst' : hostStmt (dropTurn s) = some st := hst
        rw [hst'] at h
        exact ⟨st, rfl, (Host.Outcome.next.inj h).symm⟩

/-- The engine moves only while a command is in flight (41_bitgen.md R131). -/
theorem busy_of_engine {s : State} (h : nextAgent s = some .engine) : s.busy = true := by
  rw [nextAgent] at h
  cases hb : s.busy
  · rw [hb] at h
    cases hh : hostHasStep s <;> simp [hh] at h
  · rfl

/-- Nothing moves only while the block is idle. -/
theorem idle_of_none {s : State} (h : nextAgent s = none) : s.busy = false := by
  rw [nextAgent] at h
  cases hb : s.busy
  · rfl
  · rw [hb] at h
    exfalso
    revert h
    simp only [if_true]
    split <;> simp

/-! ### A run -/

theorem run_zero (s : State) : Host.Core.run core 0 s = .next s := rfl

theorem run_succ_of_next {s t : State} (n : Nat) (h : step s = .next t) :
    Host.Core.run core (n + 1) s = Host.Core.run core n t := by
  have h' : core.step s = .next t := h
  simp only [Host.Core.run, h']

end Sys2Proof.Machine
end

