-- ==== Sys2Proof/Laws/Exec.lean ====
section
/-! SUPPORT. Everything a command can do, by unit (30_encoding.md R80), from the frames' case lemmas: proofs over all
commands cite `exec_cases` and unfold no meaning. -/

namespace Sys2Proof.Machine

/-! ### The frames' next states as record updates -/

/-- A context with the increment of an odd one is odd (10_state.md R34). -/
theorem odd_of_inc_eq {W : Nat} {c c' : PcgCtx W} (h : c'.inc = c.inc) (ho : c.inc.getLsbD 0 = true) :
    c'.inc.getLsbD 0 = true := by
  rw [h]
  exact ho

section

variable {W : Nat} {gen32 : PcgCtx W → Word32 × PcgCtx W} {gen64 : PcgCtx W → Word64 × PcgCtx W}
  (h32 : ∀ c, (gen32 c).2.inc = c.inc) (h64 : ∀ c, (gen64 c).2.inc = c.inc) (c : PcgCtx W)

include h32 in
theorem next32Native_inc : (next32Native gen32 c).2.inc = c.inc := h32 c

include h64 in
theorem next32Narrow_inc : (next32Narrow gen64 c).2.inc = c.inc := h64 c

include h32 in
theorem next64Pair_inc : (next64Pair gen32 c).2.inc = c.inc := (h32 _).trans (h32 c)

include h64 in
theorem next64Native_inc : (next64Native gen64 c).2.inc = c.inc := h64 c

include h64 in
theorem next128_inc : (next128 gen64 c).2.inc = c.inc := (h64 _).trans (h64 c)

theorem drawBit_inc {V : Nat} {gen : PcgCtx W → BitVec V × PcgCtx W} (h : ∀ c, (gen c).2.inc = c.inc)
    (c : PcgCtx W) : (drawBit gen c).2.inc = c.inc := h c

end

theorem complete_construct_mt32Unit (c : Mt32) (s : State) (d : Nat) :
    complete (construct mt32Unit c { s with draws := d })
      = complete { s with r := s.r, mt32 := c, validMt32 := true, draws := d } := rfl

theorem complete_setR_mt32Unit {n : Nat} (x : BitVec n) (c : Mt32) (s : State) :
    complete (setR x (mt32Unit.setCtx c s))
      = complete { s with r := zext 128 x, mt32 := c, validMt32 := s.validMt32, draws := s.draws } := rfl

theorem complete_setCtx_mt32Unit (c : Mt32) (s : State) :
    complete (mt32Unit.setCtx c s)
      = complete { s with r := s.r, mt32 := c, validMt32 := s.validMt32, draws := s.draws } := rfl

theorem complete_construct_mt64Unit (c : Mt64) (s : State) (d : Nat) :
    complete (construct mt64Unit c { s with draws := d })
      = complete { s with r := s.r, mt64 := c, validMt64 := true, draws := d } := rfl

theorem complete_setR_mt64Unit {n : Nat} (x : BitVec n) (c : Mt64) (s : State) :
    complete (setR x (mt64Unit.setCtx c s))
      = complete { s with r := zext 128 x, mt64 := c, validMt64 := s.validMt64, draws := s.draws } := rfl

theorem complete_setCtx_mt64Unit (c : Mt64) (s : State) :
    complete (mt64Unit.setCtx c s)
      = complete { s with r := s.r, mt64 := c, validMt64 := s.validMt64, draws := s.draws } := rfl

theorem complete_construct_pcg32Unit (c : Pcg32) (s : State) (d : Nat) :
    complete (construct pcg32Unit c { s with draws := d })
      = complete { s with r := s.r, pcg32 := c, validPcg32 := true, draws := d } := rfl

theorem complete_setR_pcg32Unit {n : Nat} (x : BitVec n) (c : Pcg32) (s : State) :
    complete (setR x (pcg32Unit.setCtx c s))
      = complete { s with r := zext 128 x, pcg32 := c, validPcg32 := s.validPcg32, draws := s.draws } := rfl

theorem complete_setCtx_pcg32Unit (c : Pcg32) (s : State) :
    complete (pcg32Unit.setCtx c s)
      = complete { s with r := s.r, pcg32 := c, validPcg32 := s.validPcg32, draws := s.draws } := rfl

theorem complete_construct_pcg64Unit (c : Pcg64) (s : State) (d : Nat) :
    complete (construct pcg64Unit c { s with draws := d })
      = complete { s with r := s.r, pcg64 := c, validPcg64 := true, draws := d } := rfl

theorem complete_setR_pcg64Unit {n : Nat} (x : BitVec n) (c : Pcg64) (s : State) :
    complete (setR x (pcg64Unit.setCtx c s))
      = complete { s with r := zext 128 x, pcg64 := c, validPcg64 := s.validPcg64, draws := s.draws } := rfl

theorem complete_setCtx_pcg64Unit (c : Pcg64) (s : State) :
    complete (pcg64Unit.setCtx c s)
      = complete { s with r := s.r, pcg64 := c, validPcg64 := s.validPcg64, draws := s.draws } := rfl

/-! ### Every command -/

/-- Everything a command can do: raise a fault, reject, store a blob, or complete with a new R, a new C, or a new
context and VALID bit of its own unit. -/
theorem exec_cases {i : Instr} {s t : State} (h : exec i s = .next t) :
    (∃ code d, code ≠ .none ∧ (code = .precond → PrecondCause i s) ∧
      t = raiseFault code { s with draws := d }) ∨
    (isLoad i = true ∧ ∃ d, t = completeRejected { s with draws := d }) ∨
    (isSave i = true ∧ ∃ bytes len, bytes.length = blobLength (unitOf i) ∧
      t = complete { s with buf := s.buf.write 0 bytes, len := len }) ∨
    (i = .nop ∧ t = complete s) ∨
    (unitOf i = 5 ∧ ∃ r c, (i ≠ .w128Add → i ≠ .w128Adc → c = s.c) ∧
      t = complete { s with r := r, c := c }) ∨
    (unitOf i = 1 ∧ ∃ r c v d, (producesValue i = false → r = s.r) ∧
      (v = s.validMt32 ∨ v = true ∧ constructsContext i = true) ∧
      t = complete { s with r := r, mt32 := c, validMt32 := v, draws := d }) ∨
    (unitOf i = 2 ∧ ∃ r c v d, (producesValue i = false → r = s.r) ∧
      (v = s.validMt64 ∨ v = true ∧ constructsContext i = true) ∧
      t = complete { s with r := r, mt64 := c, validMt64 := v, draws := d }) ∨
    (unitOf i = 3 ∧ ∃ r c v d, (producesValue i = false → r = s.r) ∧
      (v = s.validPcg32 ∨ v = true ∧ constructsContext i = true) ∧
      t = complete { s with r := r, pcg32 := c, validPcg32 := v, draws := d } ∧
      (s.pcg32.inc.getLsbD 0 = true → c.inc.getLsbD 0 = true)) ∨
    (unitOf i = 4 ∧ ∃ r c v d, (producesValue i = false → r = s.r) ∧
      (v = s.validPcg64 ∨ v = true ∧ constructsContext i = true) ∧
      t = complete { s with r := r, pcg64 := c, validPcg64 := v, draws := d } ∧
      (s.pcg64.inc.getLsbD 0 = true → c.inc.getLsbD 0 = true)) := by
  cases i with
  | nop => exact .inr (.inr (.inr (.inl ⟨rfl, (Host.Outcome.next.inj h).symm⟩)))
  | mt32Seed =>
    have ht := Host.Outcome.next.inj h
    rw [← ht]
    exact .inr (.inr (.inr (.inr (.inr (.inl ⟨rfl, _, _, _, _, fun _ => rfl, .inr ⟨rfl, rfl⟩, complete_construct_mt32Unit _ s s.draws⟩)))))
  | mt32Seeda =>
    have ht := Host.Outcome.next.inj h
    rcases seedaCommand_cases mt32Unit _ _ _ _ s with ⟨hb, he⟩ | ⟨-, he⟩
    · rw [← ht, he]
      exact .inl ⟨.precond, s.draws, by decide, fun _ => .inr (.inl ⟨rfl, hb⟩), rfl⟩
    · rw [← ht, he]
      exact .inr (.inr (.inr (.inr (.inr (.inl ⟨rfl, _, _, _, _, fun _ => rfl, .inr ⟨rfl, rfl⟩, complete_construct_mt32Unit _ s _⟩)))))
  | mt32Seede =>
    have ht := Host.Outcome.next.inj h
    rcases seedeCommand_cases mt32Unit _ s with ⟨-, he⟩ | ⟨-, he⟩
    · rw [← ht, he]
      exact .inl ⟨.entropy, s.draws + 1, by decide, nofun, rfl⟩
    · rw [← ht, he]
      exact .inr (.inr (.inr (.inr (.inr (.inl ⟨rfl, _, _, _, _, fun _ => rfl, .inr ⟨rfl, rfl⟩, complete_construct_mt32Unit _ s _⟩)))))
  | mt32Next32 =>
    have ht := Host.Outcome.next.inj h
    rcases drawCommand_cases mt32Unit _ s with ⟨-, he⟩ | ⟨-, he⟩
    · rw [← ht, he]
      exact .inr (.inr (.inr (.inr (.inr (.inl ⟨rfl, _, _, _, _, fun hp => absurd hp (by decide), .inl rfl, complete_setR_mt32Unit _ _ s⟩)))))
    · rw [← ht, he]
      exact .inl ⟨.noseed, s.draws, by decide, nofun, rfl⟩
  | mt32Next64 =>
    have ht := Host.Outcome.next.inj h
    rcases drawCommand_cases mt32Unit _ s with ⟨-, he⟩ | ⟨-, he⟩
    · rw [← ht, he]
      exact .inr (.inr (.inr (.inr (.inr (.inl ⟨rfl, _, _, _, _, fun hp => absurd hp (by decide), .inl rfl, complete_setR_mt32Unit _ _ s⟩)))))
    · rw [← ht, he]
      exact .inl ⟨.noseed, s.draws, by decide, nofun, rfl⟩
  | mt32Next128 =>
    have ht := Host.Outcome.next.inj h
    rcases drawCommand_cases mt32Unit _ s with ⟨-, he⟩ | ⟨-, he⟩
    · rw [← ht, he]
      exact .inr (.inr (.inr (.inr (.inr (.inl ⟨rfl, _, _, _, _, fun hp => absurd hp (by decide), .inl rfl, complete_setR_mt32Unit _ _ s⟩)))))
    · rw [← ht, he]
      exact .inl ⟨.noseed, s.draws, by decide, nofun, rfl⟩
  | mt32Bit =>
    have ht := Host.Outcome.next.inj h
    rcases drawCommand_cases mt32Unit _ s with ⟨-, he⟩ | ⟨-, he⟩
    · rw [← ht, he]
      exact .inr (.inr (.inr (.inr (.inr (.inl ⟨rfl, _, _, _, _, fun hp => absurd hp (by decide), .inl rfl, complete_setR_mt32Unit _ _ s⟩)))))
    · rw [← ht, he]
      exact .inl ⟨.noseed, s.draws, by decide, nofun, rfl⟩
  | mt32Jump =>
    rcases Bool.eq_false_or_eq_true s.validMt32 with hv | hv
    · rcases Int.lt_or_le (opJumpCount s) 0 with hn | hn
      · have he := execMt32Jump_of_negative hv hn
        rw [← Host.Outcome.next.inj (he.symm.trans h)]
        exact .inl ⟨.precond, s.draws, by decide, fun _ => .inl ⟨rfl, hv, opJumpCount_negative hn⟩, rfl⟩
      · have he := execMt32Jump_of_count hv hn
        rw [← Host.Outcome.next.inj (he.symm.trans h)]
        exact .inr (.inr (.inr (.inr (.inr (.inl ⟨rfl, _, _, _, _, fun _ => rfl, .inl rfl, complete_setCtx_mt32Unit _ s⟩)))))
    · have he := execMt32Jump_of_invalid hv
      rw [← Host.Outcome.next.inj (he.symm.trans h)]
      exact .inl ⟨.noseed, s.draws, by decide, nofun, rfl⟩
  | mt32Save =>
    have ht := Host.Outcome.next.inj h
    rcases saveCommand_cases mt32Unit _ _ s with ⟨-, he⟩ | ⟨-, he⟩
    · rw [← ht, he]
      exact .inr (.inr (.inl ⟨rfl, _, _, length_encMt32 _, rfl⟩))
    · rw [← ht, he]
      exact .inl ⟨.noseed, s.draws, by decide, nofun, rfl⟩
  | mt32Load =>
    have ht := Host.Outcome.next.inj h
    rcases loadCommand_cases mt32Unit _ _ s with ⟨-, he⟩ | ⟨-, -, he⟩ | ⟨c, -, hd, he⟩
    · rw [← ht, he]
      exact .inr (.inl ⟨rfl, s.draws, rfl⟩)
    · rw [← ht, he]
      exact .inr (.inl ⟨rfl, _, rfl⟩)
    · rw [← ht, he]
      exact .inr (.inr (.inr (.inr (.inr (.inl ⟨rfl, _, _, _, _, fun _ => rfl, .inr ⟨rfl, rfl⟩, complete_construct_mt32Unit _ s _⟩)))))
  | mt64Seed =>
    have ht := Host.Outcome.next.inj h
    rw [← ht]
    exact .inr (.inr (.inr (.inr (.inr (.inr (.inl ⟨rfl, _, _, _, _, fun _ => rfl, .inr ⟨rfl, rfl⟩, complete_construct_mt64Unit _ s s.draws⟩))))))
  | mt64Seeda =>
    have ht := Host.Outcome.next.inj h
    rcases seedaCommand_cases mt64Unit _ _ _ _ s with ⟨hb, he⟩ | ⟨-, he⟩
    · rw [← ht, he]
      exact .inl ⟨.precond, s.draws, by decide, fun _ => .inr (.inr ⟨rfl, hb⟩), rfl⟩
    · rw [← ht, he]
      exact .inr (.inr (.inr (.inr (.inr (.inr (.inl ⟨rfl, _, _, _, _, fun _ => rfl, .inr ⟨rfl, rfl⟩, complete_construct_mt64Unit _ s _⟩))))))
  | mt64Seede =>
    have ht := Host.Outcome.next.inj h
    rcases seedeCommand_cases mt64Unit _ s with ⟨-, he⟩ | ⟨-, he⟩
    · rw [← ht, he]
      exact .inl ⟨.entropy, s.draws + 1, by decide, nofun, rfl⟩
    · rw [← ht, he]
      exact .inr (.inr (.inr (.inr (.inr (.inr (.inl ⟨rfl, _, _, _, _, fun _ => rfl, .inr ⟨rfl, rfl⟩, complete_construct_mt64Unit _ s _⟩))))))
  | mt64Next32 =>
    have ht := Host.Outcome.next.inj h
    rcases drawCommand_cases mt64Unit _ s with ⟨-, he⟩ | ⟨-, he⟩
    · rw [← ht, he]
      exact .inr (.inr (.inr (.inr (.inr (.inr (.inl ⟨rfl, _, _, _, _, fun hp => absurd hp (by decide), .inl rfl, complete_setR_mt64Unit _ _ s⟩))))))
    · rw [← ht, he]
      exact .inl ⟨.noseed, s.draws, by decide, nofun, rfl⟩
  | mt64Next64 =>
    have ht := Host.Outcome.next.inj h
    rcases drawCommand_cases mt64Unit _ s with ⟨-, he⟩ | ⟨-, he⟩
    · rw [← ht, he]
      exact .inr (.inr (.inr (.inr (.inr (.inr (.inl ⟨rfl, _, _, _, _, fun hp => absurd hp (by decide), .inl rfl, complete_setR_mt64Unit _ _ s⟩))))))
    · rw [← ht, he]
      exact .inl ⟨.noseed, s.draws, by decide, nofun, rfl⟩
  | mt64Next128 =>
    have ht := Host.Outcome.next.inj h
    rcases drawCommand_cases mt64Unit _ s with ⟨-, he⟩ | ⟨-, he⟩
    · rw [← ht, he]
      exact .inr (.inr (.inr (.inr (.inr (.inr (.inl ⟨rfl, _, _, _, _, fun hp => absurd hp (by decide), .inl rfl, complete_setR_mt64Unit _ _ s⟩))))))
    · rw [← ht, he]
      exact .inl ⟨.noseed, s.draws, by decide, nofun, rfl⟩
  | mt64Bit =>
    have ht := Host.Outcome.next.inj h
    rcases drawCommand_cases mt64Unit _ s with ⟨-, he⟩ | ⟨-, he⟩
    · rw [← ht, he]
      exact .inr (.inr (.inr (.inr (.inr (.inr (.inl ⟨rfl, _, _, _, _, fun hp => absurd hp (by decide), .inl rfl, complete_setR_mt64Unit _ _ s⟩))))))
    · rw [← ht, he]
      exact .inl ⟨.noseed, s.draws, by decide, nofun, rfl⟩
  | mt64Save =>
    have ht := Host.Outcome.next.inj h
    rcases saveCommand_cases mt64Unit _ _ s with ⟨-, he⟩ | ⟨-, he⟩
    · rw [← ht, he]
      exact .inr (.inr (.inl ⟨rfl, _, _, length_encMt64 _, rfl⟩))
    · rw [← ht, he]
      exact .inl ⟨.noseed, s.draws, by decide, nofun, rfl⟩
  | mt64Load =>
    have ht := Host.Outcome.next.inj h
    rcases loadCommand_cases mt64Unit _ _ s with ⟨-, he⟩ | ⟨-, -, he⟩ | ⟨c, -, hd, he⟩
    · rw [← ht, he]
      exact .inr (.inl ⟨rfl, s.draws, rfl⟩)
    · rw [← ht, he]
      exact .inr (.inl ⟨rfl, _, rfl⟩)
    · rw [← ht, he]
      exact .inr (.inr (.inr (.inr (.inr (.inr (.inl ⟨rfl, _, _, _, _, fun _ => rfl, .inr ⟨rfl, rfl⟩, complete_construct_mt64Unit _ s _⟩))))))
  | pcg32Seed =>
    have ht := Host.Outcome.next.inj h
    rw [← ht]
    exact .inr (.inr (.inr (.inr (.inr (.inr (.inr (.inl ⟨rfl, _, _, _, _, fun _ => rfl, .inr ⟨rfl, rfl⟩, complete_construct_pcg32Unit _ s s.draws, fun _ => pcgSeed_odd (by decide) _ _ _⟩)))))))
  | pcg32Seede =>
    have ht := Host.Outcome.next.inj h
    rcases seedeCommand_cases pcg32Unit _ s with ⟨-, he⟩ | ⟨-, he⟩
    · rw [← ht, he]
      exact .inl ⟨.entropy, s.draws + 1, by decide, nofun, rfl⟩
    · rw [← ht, he]
      exact .inr (.inr (.inr (.inr (.inr (.inr (.inr (.inl ⟨rfl, _, _, _, _, fun _ => rfl, .inr ⟨rfl, rfl⟩, complete_construct_pcg32Unit _ s _, fun _ => oddInc_odd (by decide) _⟩)))))))
  | pcg32Next32 =>
    have ht := Host.Outcome.next.inj h
    rcases drawCommand_cases pcg32Unit _ s with ⟨-, he⟩ | ⟨-, he⟩
    · rw [← ht, he]
      exact .inr (.inr (.inr (.inr (.inr (.inr (.inr (.inl ⟨rfl, _, _, _, _, fun hp => absurd hp (by decide), .inl rfl, complete_setR_pcg32Unit _ _ s, odd_of_inc_eq (next32Native_inc genPcg32_inc _)⟩)))))))
    · rw [← ht, he]
      exact .inl ⟨.noseed, s.draws, by decide, nofun, rfl⟩
  | pcg32Next64 =>
    have ht := Host.Outcome.next.inj h
    rcases drawCommand_cases pcg32Unit _ s with ⟨-, he⟩ | ⟨-, he⟩
    · rw [← ht, he]
      exact .inr (.inr (.inr (.inr (.inr (.inr (.inr (.inl ⟨rfl, _, _, _, _, fun hp => absurd hp (by decide), .inl rfl, complete_setR_pcg32Unit _ _ s, odd_of_inc_eq (next64Pair_inc genPcg32_inc _)⟩)))))))
    · rw [← ht, he]
      exact .inl ⟨.noseed, s.draws, by decide, nofun, rfl⟩
  | pcg32Next128 =>
    have ht := Host.Outcome.next.inj h
    rcases drawCommand_cases pcg32Unit _ s with ⟨-, he⟩ | ⟨-, he⟩
    · rw [← ht, he]
      exact .inr (.inr (.inr (.inr (.inr (.inr (.inr (.inl ⟨rfl, _, _, _, _, fun hp => absurd hp (by decide), .inl rfl, complete_setR_pcg32Unit _ _ s, odd_of_inc_eq (next128_inc (next64Pair_inc genPcg32_inc) _)⟩)))))))
    · rw [← ht, he]
      exact .inl ⟨.noseed, s.draws, by decide, nofun, rfl⟩
  | pcg32Bit =>
    have ht := Host.Outcome.next.inj h
    rcases drawCommand_cases pcg32Unit _ s with ⟨-, he⟩ | ⟨-, he⟩
    · rw [← ht, he]
      exact .inr (.inr (.inr (.inr (.inr (.inr (.inr (.inl ⟨rfl, _, _, _, _, fun hp => absurd hp (by decide), .inl rfl, complete_setR_pcg32Unit _ _ s, odd_of_inc_eq (drawBit_inc genPcg32_inc _)⟩)))))))
    · rw [← ht, he]
      exact .inl ⟨.noseed, s.draws, by decide, nofun, rfl⟩
  | pcg32Adv =>
    have ht := Host.Outcome.next.inj h
    rcases moveCommand_cases pcg32Unit _ s with ⟨-, he⟩ | ⟨-, he⟩
    · rw [← ht, he]
      exact .inr (.inr (.inr (.inr (.inr (.inr (.inr (.inl ⟨rfl, _, _, _, _, fun _ => rfl, .inl rfl, complete_setCtx_pcg32Unit _ s, odd_of_inc_eq (pcgAdvance_inc _ _ _)⟩)))))))
    · rw [← ht, he]
      exact .inl ⟨.noseed, s.draws, by decide, nofun, rfl⟩
  | pcg32Save =>
    have ht := Host.Outcome.next.inj h
    rcases saveCommand_cases pcg32Unit _ _ s with ⟨-, he⟩ | ⟨-, he⟩
    · rw [← ht, he]
      exact .inr (.inr (.inl ⟨rfl, _, _, length_encPcg32 _, rfl⟩))
    · rw [← ht, he]
      exact .inl ⟨.noseed, s.draws, by decide, nofun, rfl⟩
  | pcg32Load =>
    have ht := Host.Outcome.next.inj h
    rcases loadCommand_cases pcg32Unit _ _ s with ⟨-, he⟩ | ⟨-, -, he⟩ | ⟨c, -, hd, he⟩
    · rw [← ht, he]
      exact .inr (.inl ⟨rfl, s.draws, rfl⟩)
    · rw [← ht, he]
      exact .inr (.inl ⟨rfl, _, rfl⟩)
    · rw [← ht, he]
      have ho : c.inc.getLsbD 0 = true := by
        rw [← Option.some.inj hd]
        exact pcgOfBlob_odd (by decide) _ _
      exact .inr (.inr (.inr (.inr (.inr (.inr (.inr (.inl ⟨rfl, _, _, _, _, fun _ => rfl, .inr ⟨rfl, rfl⟩, complete_construct_pcg32Unit _ s _, fun _ => ho⟩)))))))
  | pcg64Seed =>
    have ht := Host.Outcome.next.inj h
    rw [← ht]
    exact .inr (.inr (.inr (.inr (.inr (.inr (.inr (.inr (⟨rfl, _, _, _, _, fun _ => rfl, .inr ⟨rfl, rfl⟩, complete_construct_pcg64Unit _ s s.draws, fun _ => pcgSeed_odd (by decide) _ _ _⟩))))))))
  | pcg64Seede =>
    have ht := Host.Outcome.next.inj h
    rcases seedeCommand_cases pcg64Unit _ s with ⟨-, he⟩ | ⟨-, he⟩
    · rw [← ht, he]
      exact .inl ⟨.entropy, s.draws + 1, by decide, nofun, rfl⟩
    · rw [← ht, he]
      exact .inr (.inr (.inr (.inr (.inr (.inr (.inr (.inr (⟨rfl, _, _, _, _, fun _ => rfl, .inr ⟨rfl, rfl⟩, complete_construct_pcg64Unit _ s _, fun _ => oddInc_odd (by decide) _⟩))))))))
  | pcg64Next32 =>
    have ht := Host.Outcome.next.inj h
    rcases drawCommand_cases pcg64Unit _ s with ⟨-, he⟩ | ⟨-, he⟩
    · rw [← ht, he]
      exact .inr (.inr (.inr (.inr (.inr (.inr (.inr (.inr (⟨rfl, _, _, _, _, fun hp => absurd hp (by decide), .inl rfl, complete_setR_pcg64Unit _ _ s, odd_of_inc_eq (next32Narrow_inc genPcg64_inc _)⟩))))))))
    · rw [← ht, he]
      exact .inl ⟨.noseed, s.draws, by decide, nofun, rfl⟩
  | pcg64Next64 =>
    have ht := Host.Outcome.next.inj h
    rcases drawCommand_cases pcg64Unit _ s with ⟨-, he⟩ | ⟨-, he⟩
    · rw [← ht, he]
      exact .inr (.inr (.inr (.inr (.inr (.inr (.inr (.inr (⟨rfl, _, _, _, _, fun hp => absurd hp (by decide), .inl rfl, complete_setR_pcg64Unit _ _ s, odd_of_inc_eq (next64Native_inc genPcg64_inc _)⟩))))))))
    · rw [← ht, he]
      exact .inl ⟨.noseed, s.draws, by decide, nofun, rfl⟩
  | pcg64Next128 =>
    have ht := Host.Outcome.next.inj h
    rcases drawCommand_cases pcg64Unit _ s with ⟨-, he⟩ | ⟨-, he⟩
    · rw [← ht, he]
      exact .inr (.inr (.inr (.inr (.inr (.inr (.inr (.inr (⟨rfl, _, _, _, _, fun hp => absurd hp (by decide), .inl rfl, complete_setR_pcg64Unit _ _ s, odd_of_inc_eq (next128_inc (next64Native_inc genPcg64_inc) _)⟩))))))))
    · rw [← ht, he]
      exact .inl ⟨.noseed, s.draws, by decide, nofun, rfl⟩
  | pcg64Bit =>
    have ht := Host.Outcome.next.inj h
    rcases drawCommand_cases pcg64Unit _ s with ⟨-, he⟩ | ⟨-, he⟩
    · rw [← ht, he]
      exact .inr (.inr (.inr (.inr (.inr (.inr (.inr (.inr (⟨rfl, _, _, _, _, fun hp => absurd hp (by decide), .inl rfl, complete_setR_pcg64Unit _ _ s, odd_of_inc_eq (drawBit_inc genPcg64_inc _)⟩))))))))
    · rw [← ht, he]
      exact .inl ⟨.noseed, s.draws, by decide, nofun, rfl⟩
  | pcg64Adv =>
    have ht := Host.Outcome.next.inj h
    rcases moveCommand_cases pcg64Unit _ s with ⟨-, he⟩ | ⟨-, he⟩
    · rw [← ht, he]
      exact .inr (.inr (.inr (.inr (.inr (.inr (.inr (.inr (⟨rfl, _, _, _, _, fun _ => rfl, .inl rfl, complete_setCtx_pcg64Unit _ s, odd_of_inc_eq (pcgAdvance_inc _ _ _)⟩))))))))
    · rw [← ht, he]
      exact .inl ⟨.noseed, s.draws, by decide, nofun, rfl⟩
  | pcg64Save =>
    have ht := Host.Outcome.next.inj h
    rcases saveCommand_cases pcg64Unit _ _ s with ⟨-, he⟩ | ⟨-, he⟩
    · rw [← ht, he]
      exact .inr (.inr (.inl ⟨rfl, _, _, length_encPcg64 _, rfl⟩))
    · rw [← ht, he]
      exact .inl ⟨.noseed, s.draws, by decide, nofun, rfl⟩
  | pcg64Load =>
    have ht := Host.Outcome.next.inj h
    rcases loadCommand_cases pcg64Unit _ _ s with ⟨-, he⟩ | ⟨-, -, he⟩ | ⟨c, -, hd, he⟩
    · rw [← ht, he]
      exact .inr (.inl ⟨rfl, s.draws, rfl⟩)
    · rw [← ht, he]
      exact .inr (.inl ⟨rfl, _, rfl⟩)
    · rw [← ht, he]
      have ho : c.inc.getLsbD 0 = true := by
        rw [← Option.some.inj hd]
        exact pcgOfBlob_odd (by decide) _ _
      exact .inr (.inr (.inr (.inr (.inr (.inr (.inr (.inr (⟨rfl, _, _, _, _, fun _ => rfl, .inr ⟨rfl, rfl⟩, complete_construct_pcg64Unit _ s _, fun _ => ho⟩))))))))
  | w128Add => exact .inr (.inr (.inr (.inr (.inl ⟨rfl, _, _, fun h1 _ => absurd rfl h1, (Host.Outcome.next.inj h).symm⟩))))
  | w128Adc => exact .inr (.inr (.inr (.inr (.inl ⟨rfl, _, _, fun _ h2 => absurd rfl h2, (Host.Outcome.next.inj h).symm⟩))))
  | w128Mulw => exact .inr (.inr (.inr (.inr (.inl ⟨rfl, _, _, fun _ _ => rfl, (Host.Outcome.next.inj h).symm⟩))))
  | w128Mul => exact .inr (.inr (.inr (.inr (.inl ⟨rfl, _, _, fun _ _ => rfl, (Host.Outcome.next.inj h).symm⟩))))
  | w128Shl => exact .inr (.inr (.inr (.inr (.inl ⟨rfl, _, _, fun _ _ => rfl, (Host.Outcome.next.inj h).symm⟩))))
  | w128Shr => exact .inr (.inr (.inr (.inr (.inl ⟨rfl, _, _, fun _ _ => rfl, (Host.Outcome.next.inj h).symm⟩))))
  | w128Rotr => exact .inr (.inr (.inr (.inr (.inl ⟨rfl, _, _, fun _ _ => rfl, (Host.Outcome.next.inj h).symm⟩))))
  | w128Rotr64 => exact .inr (.inr (.inr (.inr (.inl ⟨rfl, _, _, fun _ _ => rfl, (Host.Outcome.next.inj h).symm⟩))))
  | w128Rotr32 => exact .inr (.inr (.inr (.inr (.inl ⟨rfl, _, _, fun _ _ => rfl, (Host.Outcome.next.inj h).symm⟩))))

end Sys2Proof.Machine
end

