-- ==== Sys2Proof/Laws/PerInstr.lean ====
section
/-! SUPPORT. Statements about the instructions as syntax, one lemma per constructor. -/

namespace Sys2Proof.Laws.EncodeFormat

open Sys2Proof

/-- The word of a command has its three fields as 30_encoding.md R80 lays them out: RSVD zero, UNIT one of the six
units, OP the operation. -/
def Statement (i : Instr) : Prop :=
  fieldRsvd (encode i) = 0 ∧ (fieldUnit (encode i)).toNat = unitOf i ∧ unitOf i ≤ 5
    ∧ (fieldOp (encode i)).toNat = opOf i

theorem nop : Statement .nop := by unfold Statement; decide
theorem mt32Seed : Statement .mt32Seed := by unfold Statement; decide
theorem mt32Seeda : Statement .mt32Seeda := by unfold Statement; decide
theorem mt32Seede : Statement .mt32Seede := by unfold Statement; decide
theorem mt32Next32 : Statement .mt32Next32 := by unfold Statement; decide
theorem mt32Next64 : Statement .mt32Next64 := by unfold Statement; decide
theorem mt32Next128 : Statement .mt32Next128 := by unfold Statement; decide
theorem mt32Bit : Statement .mt32Bit := by unfold Statement; decide
theorem mt32Jump : Statement .mt32Jump := by unfold Statement; decide
theorem mt32Save : Statement .mt32Save := by unfold Statement; decide
theorem mt32Load : Statement .mt32Load := by unfold Statement; decide
theorem mt64Seed : Statement .mt64Seed := by unfold Statement; decide
theorem mt64Seeda : Statement .mt64Seeda := by unfold Statement; decide
theorem mt64Seede : Statement .mt64Seede := by unfold Statement; decide
theorem mt64Next32 : Statement .mt64Next32 := by unfold Statement; decide
theorem mt64Next64 : Statement .mt64Next64 := by unfold Statement; decide
theorem mt64Next128 : Statement .mt64Next128 := by unfold Statement; decide
theorem mt64Bit : Statement .mt64Bit := by unfold Statement; decide
theorem mt64Save : Statement .mt64Save := by unfold Statement; decide
theorem mt64Load : Statement .mt64Load := by unfold Statement; decide
theorem pcg32Seed : Statement .pcg32Seed := by unfold Statement; decide
theorem pcg32Seede : Statement .pcg32Seede := by unfold Statement; decide
theorem pcg32Next32 : Statement .pcg32Next32 := by unfold Statement; decide
theorem pcg32Next64 : Statement .pcg32Next64 := by unfold Statement; decide
theorem pcg32Next128 : Statement .pcg32Next128 := by unfold Statement; decide
theorem pcg32Bit : Statement .pcg32Bit := by unfold Statement; decide
theorem pcg32Adv : Statement .pcg32Adv := by unfold Statement; decide
theorem pcg32Save : Statement .pcg32Save := by unfold Statement; decide
theorem pcg32Load : Statement .pcg32Load := by unfold Statement; decide
theorem pcg64Seed : Statement .pcg64Seed := by unfold Statement; decide
theorem pcg64Seede : Statement .pcg64Seede := by unfold Statement; decide
theorem pcg64Next32 : Statement .pcg64Next32 := by unfold Statement; decide
theorem pcg64Next64 : Statement .pcg64Next64 := by unfold Statement; decide
theorem pcg64Next128 : Statement .pcg64Next128 := by unfold Statement; decide
theorem pcg64Bit : Statement .pcg64Bit := by unfold Statement; decide
theorem pcg64Adv : Statement .pcg64Adv := by unfold Statement; decide
theorem pcg64Save : Statement .pcg64Save := by unfold Statement; decide
theorem pcg64Load : Statement .pcg64Load := by unfold Statement; decide
theorem w128Add : Statement .w128Add := by unfold Statement; decide
theorem w128Adc : Statement .w128Adc := by unfold Statement; decide
theorem w128Mulw : Statement .w128Mulw := by unfold Statement; decide
theorem w128Mul : Statement .w128Mul := by unfold Statement; decide
theorem w128Shl : Statement .w128Shl := by unfold Statement; decide
theorem w128Shr : Statement .w128Shr := by unfold Statement; decide
theorem w128Rotr : Statement .w128Rotr := by unfold Statement; decide
theorem w128Rotr64 : Statement .w128Rotr64 := by unfold Statement; decide
theorem w128Rotr32 : Statement .w128Rotr32 := by unfold Statement; decide

end Sys2Proof.Laws.EncodeFormat
end

