-- ==== Sys2Proof/Laws/Port.lean ====
section
/-! SUPPORT. Port words of a 128-bit register: writing one leaves the others (20_memory.md R52). -/

namespace Sys2Proof.Machine

theorem getLsbD_portWord (v : Word128) (k i : Nat) :
    (portWord v k).getLsbD i = (decide (i < 32) && v.getLsbD (32 * k + i)) := by
  simp [portWord]

theorem getLsbD_setPortWord (v : Word128) (k : Nat) (x : Word32) (i : Nat) (hk : k < 4) :
    (setPortWord v k x).getLsbD i
      = if 32 * k ≤ i ∧ i < 32 * k + 32 then x.getLsbD (i - 32 * k) else v.getLsbD i := by
  have mask : ∀ n, (0xFFFFFFFF : Word128).getLsbD n = decide (n < 32) := by
    intro n
    rw [show (0xFFFFFFFF : Word128) = BitVec.ofNat 128 (2 ^ 32 - 1) from rfl, BitVec.getLsbD_ofNat,
      Nat.testBit_two_pow_sub_one]
    by_cases h : n < 32
    · simp [h]; omega
    · simp [h]
  rw [setPortWord, BitVec.getLsbD_or, BitVec.getLsbD_and, BitVec.getLsbD_not, BitVec.getLsbD_shiftLeft,
    BitVec.getLsbD_shiftLeft, mask, BitVec.getLsbD_setWidth]
  by_cases h1 : 32 * k ≤ i
  · by_cases h2 : i < 32 * k + 32
    · have e1 : i - 32 * k < 32 := by omega
      have e2 : i < 128 := by omega
      have e3 : ¬ i < 32 * k := by omega
      have e4 : i - 32 * k < 128 := by omega
      simp [h1, h2, e1, e2, e3, e4]
    · have e1 : ¬ i - 32 * k < 32 := by omega
      have e3 : ¬ i < 32 * k := by omega
      have e5 : x.getLsbD (i - 32 * k) = false := BitVec.getLsbD_of_ge _ _ (by omega)
      by_cases e2 : i < 128
      · simp [h1, h2, e1, e2, e3, e5]
      · have e6 : v.getLsbD i = false := BitVec.getLsbD_of_ge _ _ (by omega)
        simp [e5, e6, h2]
  · have e2 : i < 128 := by omega
    have e3 : i < 32 * k := by omega
    simp [h1, e2, e3]

theorem portWord_setPortWord (v : Word128) (x : Word32) {k j : Nat} (hk : k < 4) :
    portWord (setPortWord v k x) j = if j = k then x else portWord v j := by
  apply BitVec.eq_of_getLsbD_eq
  intro i hi
  rw [getLsbD_portWord, getLsbD_setPortWord _ _ _ _ hk]
  by_cases h : j = k
  · subst h
    have e2 : 32 * j ≤ 32 * j + i ∧ 32 * j + i < 32 * j + 32 := by omega
    rw [if_pos e2, if_pos rfl, Nat.add_sub_cancel_left]
    simp [hi]
  · have e2 : ¬ (32 * k ≤ 32 * j + i ∧ 32 * j + i < 32 * k + 32) := by omega
    rw [if_neg e2, if_neg h, getLsbD_portWord]

end Sys2Proof.Machine
end

