-- ==== Sys2Proof/Tests/Slice0.lean ====
section
/-! SUPPORT. Small tests, with expected values from 95_test_vectors.md or written out from the encodings of
30_encoding.md; then, for every statement with hypotheses, states and operands that meet them. -/

namespace Sys2Proof.Tests

open Sys2Proof.Machine

/-! ### Helpers -/

/-- The next state of an outcome, or the reset state. -/
def after (o : Host.Outcome State Fault Refusal) : State :=
  match o with
  | .next s => s
  | .fault _ => State.reset
  | .refused _ => State.reset

/-- The reset state with operands. -/
def operands (a b : Word128) (c : Bool) : State := { State.reset with a := a, b := b, c := c }

/-- R and C after a W128 command. -/
def w128 (i : Instr) (a b : Word128) (c : Bool) : Word128 × Bool :=
  let t := after (exec i (operands a b c))
  (t.r, t.c)

/-- STATUS after a command word has been issued and run from a state. -/
def statusAfter (w : Nat) (s : State) : Word32 := statusWord (after (step (s.withFetchWord 32 w)))

/-- An MT32 context of one repeated word. -/
def flat32 (x : Word32) (w : Fin 625) : Mt32 := ⟨Vector.replicate 624 x, w⟩
/-- An MT64 context of one repeated word. -/
def flat64 (x : Word64) (w : Fin 313) : Mt64 := ⟨Vector.replicate 312 x, w⟩

/-- The PCG32 context after seed (42, 54) (95_test_vectors.md 2.5.1). -/
def seeded32 : Pcg32 := ⟨0x185706B82C2E03F8, 109⟩
/-- The PCG64 context after seed (42, 54) (95_test_vectors.md 2.6.1). -/
def seeded64 : Pcg64 := ⟨0xDE2BCE05BE013BE3D3F6C45A41E54320, 109⟩

/-- Every context holds a value. -/
def valid : State := { State.reset with
  validMt32 := true, validMt64 := true, validPcg32 := true, validPcg64 := true,
  mt32 := flat32 2601187879 0, pcg32 := seeded32, pcg64 := seeded64 }

/-- A NOSEED fault has been raised. -/
def halted : State := { State.reset with fault := true, code := .noseed }

/-- A command is in flight. -/
def flying (w : Word32) : State := { State.reset with pending := w, busy := true }

/-- A host program, from its first statement. -/
def hosting (p : List HostStmt) : State := { State.reset with hostProg := p }

/-! ### Well-formedness: each check refuses an ill-formed statement -/

theorem test_wf_refuses_width : HostStmt.wellFormed 1 (.write 16 0 (.lit 0)) = false := by decide
theorem test_wf_refuses_alignment : HostStmt.wellFormed 1 (.read 32 2 0) = false := by decide
theorem test_wf_refuses_outside_window : HostStmt.wellFormed 1 (.read 32 0x2000 0) = false := by decide
theorem test_wf_refuses_if_label : HostStmt.wellFormed 1 (.ifGoto (.eq (.lit 0) (.lit 0)) 2) = false := by decide
theorem test_wf_refuses_goto_label : hostProgWellFormed [.reset, .goto 3] = false := by decide
theorem test_wf_accepts : hostProgWellFormed (asmWrA (.lit 42) ++ asmExec .pcg32Seed 4 0) = true := by decide

/-! ### Decoding: words written out from 30_encoding.md R80 to R82 -/

theorem test_decode_control : decode 0b00000000000000000000000000000000#32 = .command .nop := by decide

theorem test_decode_mt32 :
    decode 0b00000000000000000000000000010000#32 = .command .mt32Seed
      ∧ decode 0x11 = .command .mt32Seeda ∧ decode 0x12 = .command .mt32Seede
      ∧ decode 0x13 = .command .mt32Next32 ∧ decode 0x14 = .command .mt32Next64
      ∧ decode 0x15 = .command .mt32Next128 ∧ decode 0x16 = .command .mt32Bit
      ∧ decode 0x17 = .command .mt32Jump ∧ decode 0x18 = .command .mt32Save
      ∧ decode 0b00000000000000000000000000011001#32 = .command .mt32Load := by decide

theorem test_decode_mt64 :
    decode 0b00000000000000000000000000100000#32 = .command .mt64Seed
      ∧ decode 0x21 = .command .mt64Seeda ∧ decode 0x22 = .command .mt64Seede
      ∧ decode 0x23 = .command .mt64Next32 ∧ decode 0x24 = .command .mt64Next64
      ∧ decode 0x25 = .command .mt64Next128 ∧ decode 0x26 = .command .mt64Bit
      ∧ decode 0x28 = .command .mt64Save ∧ decode 0x29 = .command .mt64Load := by decide

theorem test_decode_pcg32 :
    decode 0b00000000000000000000000000110000#32 = .command .pcg32Seed
      ∧ decode 0x32 = .command .pcg32Seede ∧ decode 0x33 = .command .pcg32Next32
      ∧ decode 0x34 = .command .pcg32Next64 ∧ decode 0x35 = .command .pcg32Next128
      ∧ decode 0x36 = .command .pcg32Bit ∧ decode 0x37 = .command .pcg32Adv
      ∧ decode 0x38 = .command .pcg32Save ∧ decode 0x39 = .command .pcg32Load := by decide

theorem test_decode_pcg64 :
    decode 0b00000000000000000000000001000000#32 = .command .pcg64Seed
      ∧ decode 0x42 = .command .pcg64Seede ∧ decode 0x43 = .command .pcg64Next32
      ∧ decode 0x44 = .command .pcg64Next64 ∧ decode 0x45 = .command .pcg64Next128
      ∧ decode 0x46 = .command .pcg64Bit ∧ decode 0x47 = .command .pcg64Adv
      ∧ decode 0x48 = .command .pcg64Save ∧ decode 0x49 = .command .pcg64Load := by decide

theorem test_decode_w128 :
    decode 0b00000000000000000000000001010000#32 = .command .w128Add
      ∧ decode 0x51 = .command .w128Adc ∧ decode 0x52 = .command .w128Mulw
      ∧ decode 0x53 = .command .w128Mul ∧ decode 0x54 = .command .w128Shl
      ∧ decode 0x55 = .command .w128Shr ∧ decode 0x56 = .command .w128Rotr
      ∧ decode 0x57 = .command .w128Rotr64 ∧ decode 0x58 = .command .w128Rotr32 := by decide

theorem test_decode_illegal :
    decode 0x01 = .illegal .unassignedOpc ∧ decode 0x31 = .illegal .unassignedOpc
      ∧ decode 0x59 = .illegal .unassignedOpc ∧ decode 0xFF = .illegal .unassignedOpc
      ∧ decode 0x110 = .illegal .reservedBits ∧ decode 0x80000010 = .illegal .reservedBits := by decide

theorem test_table_word : decodeTableWord 32 0x47 = some .pcg64Adv ∧ decodeTableWord 8 0x147 = some .pcg64Adv
    ∧ decodeTableWord 32 0x147 = none := by decide

theorem test_disassemble : disassemble 0x13 = "mt32.next32" ∧ disassemble 0x27 = ".word 0x00000027" := by decide

/-! ### W128 (95_test_vectors.md 2.1) -/

theorem test_add_carries : w128 .w128Add (2 ^ 128 - 1) 1 false = (0, true) := by decide +kernel
theorem test_add_low : w128 .w128Add 0xFFFFFFFFFFFFFFFF 1 true = (0x10000000000000000, false) := by decide
theorem test_adc_carry_in : w128 .w128Adc (2 ^ 128 - 1) 0 true = (0, true) := by decide +kernel
theorem test_adc_small : w128 .w128Adc 1 2 true = (4, false) := by decide
theorem test_mulw_low_halves : w128 .w128Mulw (2 ^ 64 + 3) 5 true = (15, true) := by decide +kernel
theorem test_mulw_wide :
    w128 .w128Mulw (2 ^ 64 - 1) (2 ^ 64 - 1) false = (0xFFFFFFFFFFFFFFFE0000000000000001, false) := by decide +kernel
theorem test_mul_wraps : w128 .w128Mul (2 ^ 128 - 1) (2 ^ 128 - 1) false = (1, false) := by decide +kernel
theorem test_mul_pcg64 :
    w128 .w128Mul 0xDE2BCE05BE013BE3D3F6C45A41E54320 0x2360ED051FC65DA44385DF649FCCF645 false
      = (0x10AF065F4EA96E857BB2A7886ECBD7A0, false) := by decide
theorem test_shl_width : w128 .w128Shl 1 (2 ^ 64) false = (0, false) := by decide +kernel
theorem test_shl_nibble :
    w128 .w128Shl 0x123456789ABCDEF0123456789ABCDEF0 4 false
      = (0x23456789ABCDEF0123456789ABCDEF00, false) := by decide
theorem test_shr_top : w128 .w128Shr (2 ^ 127) 127 false = (1, false) := by decide +kernel
theorem test_shr_width : w128 .w128Shr (2 ^ 128 - 1) 128 false = (0, false) := by decide
theorem test_rotr_amount :
    w128 .w128Rotr 0x0123456789ABCDEF 129 false = (0x80000000000000000091A2B3C4D5E6F7, false) := by decide
theorem test_rotr64_byte : w128 .w128Rotr64 0x0123456789ABCDEF 8 false = (0xEF0123456789ABCD, false) := by decide
theorem test_rotr64_high_half :
    w128 .w128Rotr64 0xFFFF0000000000000123456789ABCDEF 64 false = (0x0123456789ABCDEF, false) := by decide
theorem test_rotr32_wraps : w128 .w128Rotr32 1 33 false = (0x80000000, false) := by decide
theorem test_rotr32_high_bits : w128 .w128Rotr32 0xABCD12345678 0 false = (0x12345678, false) := by decide

/-! ### Mersenne Twister pieces (95_test_vectors.md 2.2, 2.3) -/

theorem test_init_word32 : initWord mt32Const 5489 1 = 1301868182 ∧ initWord mt32Const 1301868182 2 = 2938499221 := by
  decide
theorem test_init_word64 : initWord mt64Const 5489 1 = 13057201162865595358
    ∧ initWord mt64Const 13057201162865595358 2 = 10476979627314799022 := by decide
theorem test_temper32 : temper32 2601187879 = 3499211612 ∧ temper32 3919438689 = 581869302 := by decide
/-- By hand from 42_mt.md R204: 1, then bit 17 by the first mask, bits 37 and 54 by the second, bit 11 by the last
shift. -/
theorem test_temper64 : temper64 1 = BitVec.ofNat 64 (2 ^ 54 + 2 ^ 37 + 2 ^ 17 + 2 ^ 11 + 1) := by decide +kernel
theorem test_mt64_next64 : (after (exec .mt64Next64 { valid with mt64 := flat64 1 0 })).r
    = BitVec.ofNat 128 (2 ^ 54 + 2 ^ 37 + 2 ^ 17 + 2 ^ 11 + 1) := by decide +kernel
theorem test_mt64_bit : (after (exec .mt64Bit { valid with mt64 := flat64 1 311 })).r = 1
    ∧ (after (exec .mt64Bit { valid with mt64 := flat64 1 311 })).mt64.w = 312 := by decide +kernel
theorem test_mt32_next32 : (after (exec .mt32Next32 valid)).r = 3499211612
    ∧ (after (exec .mt32Next32 valid)).mt32.w = 1 := by decide
theorem test_mt32_bit : (after (exec .mt32Bit valid)).r = 0 := by decide
theorem test_mt32_save_cursor : (after (exec .mt32Save { valid with mt32 := flat32 5489 624 })).len = 2498
    ∧ Memory.byte? (after (exec .mt32Save { valid with mt32 := flat32 5489 624 })).buf 0 = some 0x70
    ∧ Memory.byte? (after (exec .mt32Save { valid with mt32 := flat32 5489 624 })).buf 1 = some 0x02
    ∧ Memory.byte? (after (exec .mt32Save { valid with mt32 := flat32 5489 624 })).buf 2 = some 0x71 := by decide

/-- By hand from 42_mt.md R209 and R210, on arrays of 3 words: from index 2 and the last key index, both wrap, and
`mt[0]` becomes the new `mt[2]`; the second pass subtracts the index. -/
theorem test_seed_pass1 :
    seedPass1 mt32Const [5, 7] ⟨#v[1, 2, 3], 2, 1⟩ = ⟨#v[3329057, 2, 3329057], 1, 0⟩
      ∧ seedPass1 mt64Const [5, 7] ⟨#v[1, 2, 3], 2, 1⟩
        = ⟨#v[7871118000740007697, 2, 7871118000740007697], 1, 0⟩ := by decide +kernel
theorem test_seed_pass2 :
    seedPass2 mt32Const ⟨#v[1, 2, 3], 2, 0⟩ = ⟨#v[3132167879, 2, 3132167879], 1, 0⟩
      ∧ seedPass2 mt64Const ⟨#v[1, 2, 3], 2, 0⟩
        = ⟨#v[5725867111555883511, 2, 5725867111555883511], 1, 0⟩ := by decide +kernel

/-! ### PCG (95_test_vectors.md 2.5, 2.6) -/

theorem test_pcg32_seed : (after (exec .pcg32Seed (operands 42 54 false))).pcg32 = seeded32 := by decide
theorem test_pcg32_seed_drops_top :
    (after (exec .pcg32Seed (operands 42 (54 + 2 ^ 63) false))).pcg32 = seeded32 := by decide +kernel
theorem test_pcg32_next32 : (after (exec .pcg32Next32 valid)).r = 2707161783
    ∧ (after (exec .pcg32Next32 valid)).pcg32.state = 0x2B47FED88766BB05 := by decide
theorem test_pcg32_next64 : (after (exec .pcg32Next64 valid)).r = 0xA15C02B77B47F409 := by decide
theorem test_pcg32_next128 : (after (exec .pcg32Next128 valid)).r = 0xA15C02B77B47F409BA1D333083D2F293 := by decide
theorem test_pcg32_bit : (after (exec .pcg32Bit valid)).r = 1 := by decide
theorem test_pcg32_adv_five : (after (exec .pcg32Adv { valid with a := 5 })).pcg32.state = 0x8303569FBE80C471 := by
  decide
theorem test_pcg32_adv_back : (after (exec .pcg32Adv { valid with a := 2 ^ 64 - 1 })).pcg32.state = 0x97 := by
  decide +kernel
theorem test_pcg32_save : (after (exec .pcg32Save valid)).buf
    = cellsFrom 0 [0xF8, 0x03, 0x2E, 0x2C, 0xB8, 0x06, 0x57, 0x18, 0x6D, 0, 0, 0, 0, 0, 0, 0] := by decide
theorem test_pcg32_load_odd : (after (exec .pcg32Load { State.reset with
      len := 16,
      buf := cellsFrom 0 [0xF8, 0x03, 0x2E, 0x2C, 0xB8, 0x06, 0x57, 0x18, 0x6C, 0, 0, 0, 0, 0, 0, 0] })).pcg32
    = seeded32 := by decide
theorem test_pcg64_seed : (after (exec .pcg64Seed (operands 42 54 false))).pcg64 = seeded64 := by decide
theorem test_pcg64_next64 : (after (exec .pcg64Next64 valid)).r = 0xBA14BFFFC8F1861B := by decide
theorem test_pcg64_next128 : (after (exec .pcg64Next128 valid)).r = 0xBA14BFFFC8F1861B86B1DA1D72062B68 := by decide
theorem test_pcg64_next32 : (after (exec .pcg64Next32 valid)).r
    = match Config.narrowSel with | .high => 3121922047 | .low => 3371271707 := by
  show zext 128 (narrow (genPcg64 seeded64).1) = _
  unfold narrow
  cases Config.narrowSel <;> decide +kernel
theorem test_pcg64_bit : (after (exec .pcg64Bit valid)).r = 1 := by decide
theorem test_pcg64_adv_three :
    (after (exec .pcg64Adv { valid with a := 3 })).pcg64.state = 0xC17F1C9974CFDC46C227BFFE7A51D193 := by decide +kernel
theorem test_pcg64_adv_back :
    (after (exec .pcg64Adv { valid with a := 2 ^ 128 - 1 })).pcg64.state = 0x97 := by decide +kernel

/-! ### Control, faults and hazards (95_test_vectors.md 2.2.9, 2.4.2, 2.7) -/

theorem test_nop_status : statusAfter 0x00 State.reset = 0 := by decide
theorem test_illegal_status : statusAfter 0x27 State.reset = 0x12 ∧ statusAfter 0x100 State.reset = 0x12
    ∧ statusAfter 0x31 State.reset = 0x12 := by decide
theorem test_noseed_status : statusAfter 0x13 State.reset = 0x42 := by decide
theorem test_jump_precond_status :
    statusAfter 0x17 { State.reset with validMt32 := true, a := 0xFFFFFFFFFFFFFFFF } = 0x122 := by decide
theorem test_seeda_precond_status : statusAfter 0x11 State.reset = 0x22
    ∧ statusAfter 0x11 { State.reset with a := 626 } = 0x22
    ∧ statusAfter 0x21 { State.reset with a := 313 } = 0x22
    ∧ statusAfter 0x11 { State.reset with a := 2 ^ 64 } = 0x22 := by decide +kernel
theorem test_load_rejected_status : statusAfter 0x39 { State.reset with validPcg32 := true } = 0x404 := by decide
theorem test_hazard_status : statusWord (after (step (writePort (.a 0) 7
      { State.reset with a := 5489, pending := 0x10, busy := true }))) = 0x132
    ∧ (after (step (writePort (.a 0) 7 { State.reset with a := 5489, pending := 0x10, busy := true }))).a = 5489 := by
  decide
theorem test_cmd_ignored_while_fault : statusWord (writePort .cmd 0x10 halted) = 0x42 := by decide
theorem test_reset_statement : statusWord (hostStmtStep .reset halted) = 0 := by decide

/-- The statement of program P1 (95_test_vectors.md): `out[n] <- v`, with `out` at 100, `n` at 1 and `v` at 2. -/
theorem test_indexed_variable :
    hostVar (hostStmtStep (.assignAt 100 (.var 1) (.var 2)) { State.reset with hostVars := [(1, 3), (2, 77)] }) 103 = 77
      ∧ evalHostExpr { State.reset with hostVars := [(1, 3), (103, 77)] } (.varAt 100 (.var 1)) = 77 := by decide

/-! ### Witnesses: states and operands that meet each statement's hypotheses -/

/-- R85's list at its ends, and the words beside them. -/
theorem witness_illegal_words :
    reservedOpc 0x01 ∧ reservedOpc 0x0F ∧ reservedOpc 0x27 ∧ reservedOpc 0x31 ∧ reservedOpc 0x41
      ∧ reservedOpc 0x59 ∧ reservedOpc 0xFF
      ∧ ¬ (256 ≤ (flying 0x10).pending.toNat ∨ reservedOpc (flying 0x10).pending.toNat)
      ∧ ¬ (256 ≤ (flying 0x58).pending.toNat ∨ reservedOpc (flying 0x58).pending.toNat)
      ∧ 256 ≤ (flying 0x100).pending.toNat := by
  simp [reservedOpc, flying]

theorem witness_step_runs :
    nextAgent (flying 0x13) = some .engine ∧ decode (flying 0x13).pending = .command .mt32Next32
      ∧ decode (BitVec.ofNat 32 (0x58 % 2 ^ 32)) = .command .w128Rotr32 := by decide

theorem witness_agents :
    nextAgent (flying 0) = some .engine ∧ (flying 0).busy = true ∧ hostHasStep (flying 0) = false
      ∧ hostHasStep { hosting [.reset] with busy := true } = true
      ∧ nextAgent { hosting [.reset] with busy := true, turns := [.host] } = some .host
      ∧ (hosting [.reset]).busy = false ∧ hostStmt (hosting [.reset]) = some .reset
      ∧ hostStmt State.reset = none := by decide

theorem witness_unadmitted :
    hostStmt (hosting [.read 16 0 1]) = some (.read 16 0 1)
      ∧ hostStmt (hosting [.write 32 2 (.lit 0)]) = some (.write 32 2 (.lit 0))
      ∧ hostStmt (hosting [.read 32 0x2000 1]) = some (.read 32 0x2000 1)
      ∧ (hosting [.read 16 0 1]).busy = false ∧ 2 % 4 ≠ 0 ∧ 0x2000 ≤ 0x2000 := by decide

theorem witness_in_flight : (flying 0x42).busy = true := by decide

theorem witness_shift_amounts :
    (operands 1 127 false).b.toNat < 128 ∧ 128 ≤ (operands 1 128 false).b.toNat := by decide

theorem witness_pcg64_step : ∃ (s t u : State) (c : Pcg64),
    exec .w128Mul { s with a := c.state, b := 0x2360ED051FC65DA44385DF649FCCF645 } = .next t
      ∧ exec .w128Add { t with a := t.r, b := c.inc } = .next u :=
  ⟨State.reset, _, _, seeded64, rfl, rfl⟩

/-- A next state of each shape of command, for the statements over all commands. -/
theorem witness_all_commands : ∃ t1 t2 t3 t4 t5,
    exec .nop State.reset = .next t1 ∧ exec .mt32Save valid = .next t2 ∧ exec .pcg64Next64 valid = .next t3
      ∧ exec .w128Add State.reset = .next t4 ∧ exec .pcg32Seed State.reset = .next t5
      ∧ unitOf .nop ≠ 1 ∧ unitOf .nop ≠ 2 ∧ unitOf .pcg64Next64 ≠ 3 ∧ unitOf .pcg32Seed ≠ 4
      ∧ isSave .mt32Save = true ∧ isSave .nop = false ∧ producesValue .nop = false
      ∧ Instr.w128Mul ≠ .w128Add ∧ Instr.w128Mul ≠ .w128Adc :=
  ⟨_, _, _, _, _, rfl, rfl, rfl, rfl, rfl, by decide, by decide, by decide, by decide, by decide, by decide,
    by decide, by decide, by decide⟩

theorem witness_valid_set : ∃ t, exec .pcg32Seed State.reset = .next t ∧ validOf State.reset 3 = false
    ∧ validOf t 3 = true := ⟨_, rfl, by decide, by decide⟩

theorem witness_valid_kept : ∃ t, step valid = .next t ∧ NextMoveIsNotReset valid ∧ validOf valid 1 = true :=
  ⟨_, rfl, by unfold NextMoveIsNotReset; decide, by decide⟩

theorem witness_noseed : needsContext .mt32Next32 = true ∧ validOf State.reset (unitOf .mt32Next32) = false
    ∧ needsContext .pcg64Adv = true ∧ validOf State.reset (unitOf .pcg64Adv) = false := by decide

theorem witness_precond :
    valid.validMt32 = true ∧ 2 ^ 63 ≤ (operands (2 ^ 63) 0 false).a.toNat % 2 ^ 64
      ∧ State.reset.a.toNat = 0 ∧ 625 < (operands 626 0 false).a.toNat ∧ 312 < (operands 313 0 false).a.toNat := by
  decide +kernel

theorem witness_precond_raised : ∃ t u v,
    exec .mt32Jump { valid with a := 2 ^ 63 } = .next t ∧ valid.code = .none ∧ t.code = .precond
      ∧ exec .mt32Seeda (operands 626 0 false) = .next u ∧ (operands 626 0 false).code = .none ∧ u.code = .precond
      ∧ exec .mt64Seeda State.reset = .next v ∧ State.reset.code = .none ∧ v.code = .precond :=
  ⟨_, _, _, execMt32Jump_of_negative rfl (by decide +kernel), rfl, rfl, rfl, rfl, rfl, rfl, rfl, rfl⟩

theorem witness_faulting : ∃ t, exec .mt32Next32 State.reset = .next t ∧ State.reset.fault = false
    ∧ t.fault = true := ⟨_, rfl, by decide, by decide⟩

theorem witness_first_code_kept : ∃ t, exec .mt32Next32 halted = .next t ∧ halted.code ≠ .none
    ∧ halted.fault = true := ⟨_, rfl, by decide, by decide⟩

theorem witness_halted : ∃ t, step { halted with hostProg := [asmIssue .mt32Seed] } = .next t
    ∧ NextMoveIsNotReset { halted with hostProg := [asmIssue .mt32Seed] }
    ∧ halted.fault = true ∧ halted.code ≠ .none ∧ halted.busy = false :=
  ⟨_, rfl, by unfold NextMoveIsNotReset; decide, by decide, by decide, by decide⟩

theorem witness_command_write :
    halted.fault = true ∧ State.reset.fault = false ∧ State.reset.busy = false ∧ (flying 0).fault = false
      ∧ (flying 0).busy = true := by decide

theorem witness_busy_access :
    (flying 0).busy = true ∧ ((flying 0).fault = true → (flying 0).code ≠ .none)
      ∧ ({ flying 0 with fault := true, code := .noseed } : State).code ≠ .none
      ∧ portReg 0x0000 = .cmd ∧ portReg 0x0004 = .status ∧ portReg 0x0008 = .len ∧ portReg 0x000C = .flags
      ∧ portReg 0x0010 = .a 0 ∧ portReg 0x002C = .b 3 ∧ portReg 0x0030 = .r 0 ∧ portReg 0x003C = .r 3
      ∧ portReg 0x0040 = .reserved ∧ portReg 0x0FFC = .reserved ∧ portReg 0x1000 = .buf 0
      ∧ portReg 0x19C0 = .buf 624 ∧ portReg 0x19C4 = .reserved ∧ portReg 0x1FFC = .reserved
      ∧ 0x1FFC % 4 = 0 ∧ 0x1FFC < 0x2000 := by decide

/-- The idle block, and the four variables of `rd R`. -/
theorem witness_idle_port : State.reset.busy = false ∧ [0, 1, 2, 3].Nodup ∧ 3 < 4 ∧ 0 ≠ 3 ∧ 624 < 625
    ∧ 2495 < 4 * 624 ∧ 4 * 0 + 4 ≤ 4 := by decide

/-- An idle block without a fault at `exec pcg32.seed`, whose statements stand at places 1 to 3. -/
theorem witness_exec_pseudo :
    (hosting (asmClc :: asmExec .pcg32Seed 1 9)).busy = false
      ∧ (hosting (asmClc :: asmExec .pcg32Seed 1 9)).fault = false
      ∧ (hosting (asmClc :: asmExec .pcg32Seed 1 9)).turns = []
      ∧ ({ hosting (asmClc :: asmExec .pcg32Seed 1 9) with hostAt := 1 } : State).hostAt = 1
      ∧ (((hosting (asmClc :: asmExec .pcg32Seed 1 9)).hostProg).drop 1).take 3 = asmExec .pcg32Seed 1 9 := by
  decide

theorem reset_inv : Inv State.reset :=
  ⟨rfl, Nat.zero_le _, Nat.zero_le _, rfl, rfl, by simp [State.reset, State.afterReset]⟩

theorem witness_invariant_step : ∃ t, Inv State.reset ∧ step State.reset = .next t := ⟨_, reset_inv, rfl⟩

theorem witness_unwritten :
    Memory.byte? State.reset.buf (0 + 1) = none ∧ Memory.byte? (memWrite 0 [7] State.reset).buf (0 + 0) = some 7 := by
  decide

/-- The indices at which the twist's cases meet. -/
theorem witness_twist_indices : 226 < 227 ∧ ¬ 227 < 227 ∧ 622 < 623 ∧ 623 < 624 ∧ 155 < 156 ∧ 310 < 311 ∧ 311 < 312 := by
  decide

theorem witness_seed_indices : 1 ≤ 1 ∧ 623 < 624 ∧ 311 < 312 := by decide

theorem witness_seeda :
    1 ≤ (operands 1 0 false).a.toNat ∧ (operands 625 0 false).a.toNat ≤ 625
      ∧ (operands 312 0 false).a.toNat ≤ 312 := by decide

/-- A loop state of array seeding inside the array, at the last word, and at the last key word. -/
theorem witness_seed_loop :
    let key : List Word32 := [5, 7]
    let l : SeedLoop 32 624 := ⟨Vector.replicate 624 0, 1, 0⟩
    1 ≤ l.i ∧ l.i < 624 ∧ l.j < key.length ∧ l.i + 1 ≠ 624 ∧ l.j + 1 ≠ key.length
      ∧ ({ l with i := 623, j := 1 } : SeedLoop 32 624).i + 1 = 624
      ∧ ({ l with i := 623, j := 1 } : SeedLoop 32 624).j + 1 = key.length ∧ 1 ≤ key.length
      ∧ ({ mt := Vector.replicate 312 0, i := 311, j := 0 } : SeedLoop 64 312).i + 1 = 312
      ∧ 1 ≤ 7 ∧ 7 < 624 ∧ 7 ≠ l.i := by decide

theorem witness_native_draws :
    (flat32 0 623).w.val < 624 ∧ (flat32 0 624).w.val = 624 ∧ (flat64 0 311).w.val < 312
      ∧ (flat64 0 312).w.val = 312 := by decide

theorem witness_jump :
    valid.validMt32 = true ∧ ({ valid with a := 2 ^ 63 - 1 } : State).a.toNat % 2 ^ 64 < 2 ^ 63
      ∧ valid.a.toNat % 2 ^ 64 = 0 ∧ 1 ≤ ({ valid with a := 1 } : State).a.toNat % 2 ^ 64 := by decide +kernel

theorem witness_jumps_compose : ∃ (s s1 s2 s3 : State) (x y : Word128),
    s.validMt32 = true ∧ s.a.toNat % 2 ^ 64 + x.toNat % 2 ^ 64 < 2 ^ 63
      ∧ y.toNat % 2 ^ 64 = s.a.toNat % 2 ^ 64 + x.toNat % 2 ^ 64
      ∧ exec .mt32Jump s = .next s1 ∧ exec .mt32Jump { s1 with a := x } = .next s2
      ∧ exec .mt32Jump { s with a := y } = .next s3 :=
  ⟨{ valid with a := 1 }, _, _, _, 2, 3, by decide, by decide, by decide, rfl, rfl, rfl⟩

theorem witness_jump_commutes : ∃ s d dj j jd : State,
    s.validMt32 = true ∧ s.a.toNat % 2 ^ 64 < 2 ^ 63 ∧ exec .mt32Next32 s = .next d ∧ exec .mt32Jump d = .next dj
      ∧ exec .mt32Jump s = .next j ∧ exec .mt32Next32 j = .next jd :=
  ⟨{ valid with a := 1 }, _, _, _, _, by decide, by decide, rfl, rfl, rfl, rfl⟩

theorem witness_contexts_hold_values :
    valid.validMt32 = true ∧ valid.validMt64 = true ∧ valid.validPcg32 = true ∧ valid.validPcg64 = true
      ∧ valid.pcg32.inc.getLsbD 0 = true ∧ valid.pcg64.inc.getLsbD 0 = true := by decide

theorem witness_two_draws : ∃ t t1 t2 u u1 u2,
    exec .mt32Next64 valid = .next t ∧ exec .mt32Next32 valid = .next t1 ∧ exec .mt32Next32 t1 = .next t2
      ∧ exec .pcg32Next64 valid = .next u ∧ exec .pcg32Next32 valid = .next u1 ∧ exec .pcg32Next32 u1 = .next u2 :=
  ⟨_, _, _, _, _, _, rfl, rfl, rfl, rfl, rfl, rfl⟩

/-- A state whose blob has the length and the cursor given, its other bytes unwritten. -/
def blobbed (len : Nat) (lo hi : Byte) : State :=
  { State.reset with len := BitVec.ofNat 16 len, buf := cellsFrom 0 [lo, hi] }

theorem cursor_of_blobbed (n len : Nat) (lo hi : Byte) :
    leValue ((memRead 0 (n + 2) (blobbed len lo hi)).1.take 2) = lo.toNat + 256 * hi.toNat := rfl

/-- 95_test_vectors.md 2.2.8 and 2.3.6: cursor 625 or 313 rejects, 624 or 312 is accepted. -/
theorem test_load_cursor_status :
    statusAfter 0x19 (blobbed 2498 0x71 0x02) = 0x4 ∧ statusAfter 0x19 (blobbed 2498 0x70 0x02) = 0x100
      ∧ statusAfter 0x29 (blobbed 2498 0x39 0x01) = 0x4 ∧ statusAfter 0x29 (blobbed 2498 0x38 0x01) = 0x200
      ∧ statusAfter 0x19 (blobbed 2497 0x70 0x02) = 0x4 := by decide +kernel

theorem witness_load_accepts :
    (blobbed 2498 0x70 0x02).len = 2498
      ∧ leValue ((memRead 0 2498 (blobbed 2498 0x70 0x02)).1.take 2) ≤ 624
      ∧ leValue ((memRead 0 2498 (blobbed 2498 0x38 0x01)).1.take 2) ≤ 312
      ∧ (blobbed 16 0 0).len = 16 ∧ (blobbed 32 0 0).len = 32 := by
  refine ⟨rfl, ?_, ?_, rfl, rfl⟩
  · rw [cursor_of_blobbed 2496]; decide
  · rw [cursor_of_blobbed 2496]; decide

theorem witness_load_rejects :
    isLoad .pcg32Load = true ∧ State.reset.len.toNat ≠ blobLength (unitOf .pcg32Load)
      ∧ 624 < leValue ((memRead 0 2498 (blobbed 2498 0x71 0x02)).1.take 2)
      ∧ 312 < leValue ((memRead 0 2498 (blobbed 2498 0x39 0x01)).1.take 2) := by
  refine ⟨rfl, by decide, ?_, ?_⟩
  · rw [cursor_of_blobbed 2496]; decide
  · rw [cursor_of_blobbed 2496]; decide

theorem witness_round_trip : ∃ t1 t2 t3 t4,
    exec .mt32Save valid = .next t1 ∧ exec .mt64Save valid = .next t2 ∧ exec .pcg32Save valid = .next t3
      ∧ exec .pcg64Save valid = .next t4 := ⟨_, _, _, _, rfl, rfl, rfl, rfl⟩

end Sys2Proof.Tests
end

section
/-! PROOFS. The invariant of every reachable state (10_state.md R28, R34; 60_exceptions.md R401): it holds at reset
and every step keeps it. -/

namespace Sys2Proof.Machine

/-! ### What is left to show of the invariant -/

/-- The cursor bounds are the types' own, so four facts make the invariant. -/
theorem inv_of {s : State} (hbuf : s.buf.wf = true) (h32 : s.pcg32.inc.getLsbD 0 = true)
    (h64 : s.pcg64.inc.getLsbD 0 = true) (hcode : s.fault = true ↔ s.code ≠ .none) : Inv s :=
  ⟨hbuf, Nat.le_of_lt_succ s.mt32.w.isLt, Nat.le_of_lt_succ s.mt64.w.isLt, h32, h64, hcode⟩

theorem afterReset_inv (d : Nat) (prog : List HostStmt) (n : Nat) (vars : List (Nat × Nat)) (turns : List Agent) :
    Inv (State.afterReset d prog n vars turns) :=
  inv_of rfl (by simp [State.afterReset]) (by simp [State.afterReset]) (by simp [State.afterReset])

theorem recordFault_inv {s : State} (h : Inv s) {code : FaultCode} (hc : code ≠ .none) :
    Inv (recordFault code s) :=
  inv_of h.bufWf h.pcg32Odd h.pcg64Odd (iff_of_true rfl (recordFault_code_ne_none hc s))

/-- A fault of a command after it has taken free values. -/
theorem raiseFault_inv {s : State} (h : Inv s) {code : FaultCode} (hc : code ≠ .none) (d : Nat) :
    Inv (raiseFault code { s with draws := d }) :=
  inv_of h.bufWf h.pcg32Odd h.pcg64Odd (iff_of_true rfl (raiseFault_code_ne_none hc { s with draws := d }))

/-- A write inside BUF, whatever it does to LEN. -/
theorem write_inv {s : State} (h : Inv s) (addr : Nat) (bytes : List Byte) (len : BitVec 16)
    (hin : addr + bytes.length ≤ bufSize) : Inv { s with buf := s.buf.write addr bytes, len := len } :=
  inv_of (wf_write h.bufWf addr bytes hin) h.pcg32Odd h.pcg64Odd h.faultCode

theorem complete_inv {s : State} (h : Inv s) : Inv (complete s) :=
  inv_of h.bufWf h.pcg32Odd h.pcg64Odd h.faultCode

theorem hostNextStmt_inv {s : State} (h : Inv s) : Inv (hostNextStmt s) :=
  inv_of h.bufWf h.pcg32Odd h.pcg64Odd h.faultCode

theorem dropTurn_inv {s : State} (h : Inv s) : Inv (dropTurn s) :=
  inv_of h.bufWf h.pcg32Odd h.pcg64Odd h.faultCode

/-- Every blob of the SAVE frame fits in BUF (10_state.md R28). -/
theorem blobLength_le_bufSize (unit : Nat) : blobLength unit ≤ bufSize := by
  unfold blobLength bufSize
  split <;> decide

/-! ### Both agents keep it -/

/-- Every command keeps the invariant (10_state.md R34). -/
theorem exec_inv {i : Instr} {s t : State} (h : Inv s) (he : exec i s = .next t) : Inv t := by
  rcases exec_cases he with ⟨code, d, hc, -, rfl⟩ | ⟨-, d, rfl⟩ | ⟨-, bytes, len, hl, rfl⟩ | ⟨-, rfl⟩ |
    ⟨-, r, c, -, rfl⟩ | ⟨-, r, c, v, d, -, -, rfl⟩ | ⟨-, r, c, v, d, -, -, rfl⟩ |
    ⟨-, r, c, v, d, -, -, rfl, ho⟩ | ⟨-, r, c, v, d, -, -, rfl, ho⟩
  · exact raiseFault_inv h hc d
  · exact inv_of h.bufWf h.pcg32Odd h.pcg64Odd h.faultCode
  · refine complete_inv (write_inv h 0 bytes len ?_)
    rw [hl, Nat.zero_add]
    exact blobLength_le_bufSize _
  · exact complete_inv h
  · exact inv_of h.bufWf h.pcg32Odd h.pcg64Odd h.faultCode
  · exact inv_of h.bufWf h.pcg32Odd h.pcg64Odd h.faultCode
  · exact inv_of h.bufWf h.pcg32Odd h.pcg64Odd h.faultCode
  · exact inv_of h.bufWf (ho h.pcg32Odd) h.pcg64Odd h.faultCode
  · exact inv_of h.bufWf h.pcg32Odd (ho h.pcg64Odd) h.faultCode

/-- Every port write keeps the invariant: the map's BUF words lie inside BUF (20_memory.md R51). -/
theorem writePort_inv {s : State} (h : Inv s) (off : Nat) (v : Word32) : Inv (writePort (portReg off) v s) := by
  rcases writePort_cases (portReg off) v s with he | ⟨-, he⟩ |
    ⟨-, ⟨-, -, he⟩ | ⟨x, he⟩ | ⟨x, he⟩ | ⟨x, he⟩ | ⟨x, he⟩ | ⟨k, hk, he⟩⟩ <;> rw [he]
  · exact h
  · exact recordFault_inv h (by decide)
  · exact inv_of h.bufWf h.pcg32Odd h.pcg64Odd h.faultCode
  · exact inv_of h.bufWf h.pcg32Odd h.pcg64Odd h.faultCode
  · exact inv_of h.bufWf h.pcg32Odd h.pcg64Odd h.faultCode
  · exact inv_of h.bufWf h.pcg32Odd h.pcg64Odd h.faultCode
  · exact inv_of h.bufWf h.pcg32Odd h.pcg64Odd h.faultCode
  · have hlt := portReg_buf_lt hk
    refine write_inv h (4 * k) (leBytes 4 v.toNat) s.len ?_
    rw [length_leBytes, bufSize]
    omega

/-- Every host statement keeps the invariant. -/
theorem hostStmtStep_inv {s : State} (h : Inv s) (st : HostStmt) : Inv (hostStmtStep st s) := by
  rcases hostStmtStep_cases st s with ⟨p, v, off, w, e, -, rfl, he⟩ | ⟨x, v, d, he⟩ | ⟨target, he⟩ | ⟨-, he⟩ <;>
    rw [he]
  · exact hostNextStmt_inv (writePort_inv h off v)
  · exact inv_of h.bufWf h.pcg32Odd h.pcg64Odd h.faultCode
  · exact inv_of h.bufWf h.pcg32Odd h.pcg64Odd h.faultCode
  · exact hostNextStmt_inv (afterReset_inv _ _ _ _ _)

/-- Settles O38: each of a step's four ways to go keeps the invariant. -/
theorem stepKeepsInvariant : Obligations.StepKeepsInvariant := by
  intro s t h hs
  rcases step_cases hs with ⟨-, i, -, he⟩ | ⟨-, rfl⟩ | ⟨-, st, -, rfl⟩ | ⟨-, rfl⟩
  · exact exec_inv (dropTurn_inv h) he
  · exact raiseFault_inv (dropTurn_inv h) (by decide) _
  · exact hostStmtStep_inv (dropTurn_inv h) st
  · exact h

/-- Settles O37: reset is the reset values with no program. -/
theorem invariantAtReset : Obligations.InvariantAtReset :=
  afterReset_inv 0 [] 0 [] []

end Sys2Proof.Machine
end

section
/-! PROOFS. What a command leaves of the state (10_state.md R21 to R26, R33): frames read off `exec_cases`. -/

namespace Sys2Proof.Machine

/-! ### Operands, R, LEN and BUF -/

/-- Settles O17: none of a command's ways to go writes A, B, PENDING or the host. -/
theorem commandsKeepOperands : Obligations.CommandsKeepOperands := by
  intro i s t h
  rcases exec_cases h with ⟨code, d, -, -, rfl⟩ | ⟨-, d, rfl⟩ | ⟨-, bytes, len, -, rfl⟩ | ⟨-, rfl⟩ |
    ⟨-, r, c, -, rfl⟩ | ⟨-, r, c, v, d, -, -, rfl⟩ | ⟨-, r, c, v, d, -, -, rfl⟩ |
    ⟨-, r, c, v, d, -, -, rfl, -⟩ | ⟨-, r, c, v, d, -, -, rfl, -⟩ <;>
    exact ⟨rfl, rfl, rfl, rfl, rfl, rfl, rfl⟩

/-- W128 commands produce a value (30_encoding.md R84). -/
theorem producesValue_of_w128 {i : Instr} (h : unitOf i = 5) : producesValue i = true := by
  simp [producesValue, h]

/-- A command leaves BUF and LEN, or it is a SAVE and leaves the bytes beyond its blob (41_bitgen.md R140). -/
theorem exec_buf_cases {i : Instr} {s t : State} (h : exec i s = .next t) :
    (t.buf = s.buf ∧ t.len = s.len) ∨
    (isSave i = true ∧ ∀ x, blobLength (unitOf i) ≤ x → Memory.byte? t.buf x = Memory.byte? s.buf x) := by
  rcases exec_cases h with ⟨code, d, -, -, rfl⟩ | ⟨-, d, rfl⟩ | ⟨hs, bytes, len, hl, rfl⟩ | ⟨-, rfl⟩ |
    ⟨-, r, c, -, rfl⟩ | ⟨-, r, c, v, d, -, -, rfl⟩ | ⟨-, r, c, v, d, -, -, rfl⟩ |
    ⟨-, r, c, v, d, -, -, rfl, -⟩ | ⟨-, r, c, v, d, -, -, rfl, -⟩
  · exact .inl ⟨rfl, rfl⟩
  · exact .inl ⟨rfl, rfl⟩
  · refine .inr ⟨hs, fun x hx => byte?_write_of_outside s.buf 0 bytes x (.inr ?_)⟩
    rwa [hl, Nat.zero_add]
  all_goals exact .inl ⟨rfl, rfl⟩

/-- Only draws and W128 write R (10_state.md R23). -/
theorem exec_r_of_no_value {i : Instr} {s t : State} (h : exec i s = .next t) (hp : producesValue i = false) :
    t.r = s.r := by
  rcases exec_cases h with ⟨code, d, -, -, rfl⟩ | ⟨-, d, rfl⟩ | ⟨-, bytes, len, -, rfl⟩ | ⟨-, rfl⟩ |
    ⟨hu, r, c, -, rfl⟩ | ⟨-, r, c, v, d, hr, -, rfl⟩ | ⟨-, r, c, v, d, hr, -, rfl⟩ |
    ⟨-, r, c, v, d, hr, -, rfl, -⟩ | ⟨-, r, c, v, d, hr, -, rfl, -⟩
  · rfl
  · rfl
  · rfl
  · rfl
  · exact absurd (producesValue_of_w128 hu) (by simp [hp])
  all_goals exact hr hp

/-- Settles O20, from what a command can do to BUF and LEN, and to R. -/
theorem onlySaveWritesBufOnlyValuesWriteR : Obligations.OnlySaveWritesBufOnlyValuesWriteR := by
  intro i s t h
  refine ⟨fun hs => ?_, fun _ x hx => ?_, exec_r_of_no_value h⟩ <;>
    rcases exec_buf_cases h with hb | ⟨hs', hb⟩
  · exact hb
  · exact absurd hs' (by simp [hs])
  · rw [hb.1]
  · exact hb x hx

/-! ### The VALID bits -/

/-- A unit's VALID bit agrees in two states when the one VALID bit it names does (10_state.md R27). -/
theorem validOf_eq_of {s t : State} {unit : Nat} (h1 : unit = 1 → t.validMt32 = s.validMt32)
    (h2 : unit = 2 → t.validMt64 = s.validMt64) (h3 : unit = 3 → t.validPcg32 = s.validPcg32)
    (h4 : unit = 4 → t.validPcg64 = s.validPcg64) : validOf t unit = validOf s unit := by
  unfold validOf
  split
  · exact h1 rfl
  · exact h2 rfl
  · exact h3 rfl
  · exact h4 rfl
  · rfl

theorem validOf_eq_of_sameValid {s t : State} (h : SameValid t s) (unit : Nat) :
    validOf t unit = validOf s unit := by
  obtain ⟨h1, h2, h3, h4⟩ := h
  exact validOf_eq_of (fun _ => h1) (fun _ => h2) (fun _ => h3) (fun _ => h4)

/-- A command of unit `own` that keeps the other units' VALID bits, and its own unless it constructs. -/
theorem validOf_cases_of_unit {i : Instr} {s t : State} {own unit : Nat} (hu : unitOf i = own)
    (hother : unit ≠ own → validOf t unit = validOf s unit)
    (hown : validOf t own = validOf s own ∨ validOf t own = true ∧ constructsContext i = true) :
    validOf t unit = validOf s unit ∨
    (unitOf i = unit ∧ constructsContext i = true ∧ validOf t unit = true) := by
  by_cases he : unit = own
  · subst he
    exact hown.imp_right fun ⟨ht, hc⟩ => ⟨hu, hc, ht⟩
  · exact .inl (hother he)

/-- A command keeps a unit's VALID bit, or it is one of that unit that constructs its context and sets the bit
(10_state.md R33). -/
theorem exec_validOf_cases {i : Instr} {s t : State} (h : exec i s = .next t) (unit : Nat) :
    validOf t unit = validOf s unit ∨
    (unitOf i = unit ∧ constructsContext i = true ∧ validOf t unit = true) := by
  rcases exec_cases h with ⟨code, d, -, -, rfl⟩ | ⟨-, d, rfl⟩ | ⟨-, bytes, len, -, rfl⟩ | ⟨-, rfl⟩ |
    ⟨-, r, c, -, rfl⟩ | ⟨hu, r, c, v, d, -, hv, rfl⟩ | ⟨hu, r, c, v, d, -, hv, rfl⟩ |
    ⟨hu, r, c, v, d, -, hv, rfl, -⟩ | ⟨hu, r, c, v, d, -, hv, rfl, -⟩
  · exact .inl (validOf_eq_of_sameValid ⟨rfl, rfl, rfl, rfl⟩ unit)
  · exact .inl (validOf_eq_of_sameValid ⟨rfl, rfl, rfl, rfl⟩ unit)
  · exact .inl (validOf_eq_of_sameValid ⟨rfl, rfl, rfl, rfl⟩ unit)
  · exact .inl (validOf_eq_of_sameValid ⟨rfl, rfl, rfl, rfl⟩ unit)
  · exact .inl (validOf_eq_of_sameValid ⟨rfl, rfl, rfl, rfl⟩ unit)
  · exact validOf_cases_of_unit hu (fun hne =>
      validOf_eq_of (fun he => absurd he hne) (fun _ => rfl) (fun _ => rfl) (fun _ => rfl)) hv
  · exact validOf_cases_of_unit hu (fun hne =>
      validOf_eq_of (fun _ => rfl) (fun he => absurd he hne) (fun _ => rfl) (fun _ => rfl)) hv
  · exact validOf_cases_of_unit hu (fun hne =>
      validOf_eq_of (fun _ => rfl) (fun _ => rfl) (fun he => absurd he hne) (fun _ => rfl)) hv
  · exact validOf_cases_of_unit hu (fun hne =>
      validOf_eq_of (fun _ => rfl) (fun _ => rfl) (fun _ => rfl) (fun he => absurd he hne)) hv

theorem writePort_sameValid (p : PortReg) (v : Word32) (s : State) : SameValid (writePort p v s) s := by
  rcases writePort_cases p v s with he | ⟨-, he⟩ |
    ⟨-, ⟨-, -, he⟩ | ⟨x, he⟩ | ⟨x, he⟩ | ⟨x, he⟩ | ⟨x, he⟩ | ⟨k, -, he⟩⟩ <;>
    rw [he] <;> exact ⟨rfl, rfl, rfl, rfl⟩

/-- Only the reset statement touches a VALID bit (10_state.md R33). -/
theorem hostStmtStep_sameValid {st : HostStmt} (hne : st ≠ .reset) (s : State) :
    SameValid (hostStmtStep st s) s := by
  rcases hostStmtStep_cases st s with ⟨p, v, off, w, e, -, -, he⟩ | ⟨x, v, d, he⟩ | ⟨target, he⟩ | ⟨hr, -⟩
  · rw [he]
    exact writePort_sameValid p v s
  · rw [he]
    exact ⟨rfl, rfl, rfl, rfl⟩
  · rw [he]
    exact ⟨rfl, rfl, rfl, rfl⟩
  · exact absurd hr hne

theorem exec_keeps_valid {i : Instr} {s t : State} (h : exec i s = .next t) {unit : Nat}
    (hv : validOf s unit = true) : validOf t unit = true := by
  rcases exec_validOf_cases h unit with he | ⟨-, -, he⟩
  · rw [he, hv]
  · exact he

theorem step_keeps_valid {s t : State} (h : step s = .next t) (hr : NextMoveIsNotReset s) {unit : Nat}
    (hv : validOf s unit = true) : validOf t unit = true := by
  rcases step_cases h with ⟨-, i, -, he⟩ | ⟨-, rfl⟩ | ⟨hn, st, hst, rfl⟩ | ⟨-, rfl⟩
  · exact exec_keeps_valid he hv
  · exact hv
  · have hne : st ≠ .reset := fun e => hr hn (by rw [hst, e])
    exact (validOf_eq_of_sameValid (hostStmtStep_sameValid hne (dropTurn s)) unit).trans hv
  · exact hv

/-- Settles O21: a VALID bit a command sets is its own generator's, and only reset clears one. -/
theorem validBitsOnlySetByConstruction : Obligations.ValidBitsOnlySetByConstruction := by
  refine ⟨fun i s t unit h => ⟨exec_keeps_valid h, fun hs ht => ?_⟩, fun s t unit h hr => step_keeps_valid h hr⟩
  rcases exec_validOf_cases h unit with he | ⟨hu, hc, -⟩
  · rw [he, hs] at ht
    exact absurd ht Bool.false_ne_true
  · exact ⟨hu, hc⟩

end Sys2Proof.Machine
end

section
/-! PROOFS. Commands do not see state that is not theirs (10_state.md R24, R29 to R32): a change of it before a
command is the same change after it. -/

namespace Sys2Proof.Machine

/-! ### Changes the shared operations do not see -/

/-- `g` changes a part of the state that no shared operation reads or writes: what they read is as before, and what
they write may be written before `g` or after it. -/
structure Unseen (g : State → State) : Prop where
  a : ∀ s, (g s).a = s.a
  b : ∀ s, (g s).b = s.b
  len : ∀ s, (g s).len = s.len
  buf : ∀ s, (g s).buf = s.buf
  draws : ∀ s, (g s).draws = s.draws
  complete : ∀ s, complete (g s) = g (complete s)
  completeRejected : ∀ s, completeRejected (g s) = g (completeRejected s)
  raiseFault : ∀ code s, raiseFault code (g s) = g (raiseFault code s)
  setR : ∀ {n : Nat} (v : BitVec n) s, setR v (g s) = g (setR v s)
  setDraws : ∀ d s, { g s with draws := d } = g { s with draws := d }
  setBuf : ∀ m l s, { g s with buf := m, len := l } = g { s with buf := m, len := l }

/-- `g` changes nothing of a generator unit: neither its context nor its VALID bit. -/
structure UnseenBy {γ : Type} (u : GenUnit γ) (g : State → State) : Prop where
  valid : ∀ s, u.valid (g s) = u.valid s
  ctx : ∀ s, u.ctx (g s) = u.ctx s
  setCtx : ∀ c s, u.setCtx c (g s) = g (u.setCtx c s)
  setValid : ∀ s, u.setValid (g s) = g (u.setValid s)

/-- `g` neither reads nor changes C. -/
structure UnseenByCarry (g : State → State) : Prop where
  c : ∀ s, (g s).c = s.c
  setC : ∀ x s, { g s with c := x } = g { s with c := x }

/-- An outcome with its next state changed by `g`. -/
def thenChange (g : State → State) : Host.Outcome State Fault Refusal → Host.Outcome State Fault Refusal
  | .next s => .next (g s)
  | .fault r => .fault r
  | .refused r => .refused r

/-! ### The frames commute with such a change -/

section

variable {γ : Type} {u : GenUnit γ} {g : State → State} (hg : Unseen g) (hu : UnseenBy u g) (s : State)

include hg in
theorem memRead_unseen (addr n : Nat) : memRead addr n (g s) = ((memRead addr n s).1, g (memRead addr n s).2) := by
  simp only [memRead]
  rw [hg.setDraws, hg.buf, hg.draws]

include hu in
theorem construct_unseen (c : γ) : construct u c (g s) = g (construct u c s) := by
  rw [construct, hu.setCtx, hu.setValid, construct]

include hg hu in
theorem checkValid_unseen {e e' : State} (he : e' = g e) : checkValid u (g s) e' = g (checkValid u s e) := by
  rw [checkValid, checkValid, hu.valid, hg.raiseFault, he, apply_ite g]

include hg hu in
theorem drawCommand_unseen {n : Nat} (draw : γ → BitVec n × γ) :
    drawCommand u draw (g s) = g (drawCommand u draw s) :=
  checkValid_unseen hg hu s (by simp only [hu.ctx, hu.setCtx, hg.setR, hg.complete])

include hg hu in
theorem moveCommand_unseen {f f' : γ → γ} (hf : f' = f) : moveCommand u f' (g s) = g (moveCommand u f s) :=
  checkValid_unseen hg hu s (by rw [hf, hu.ctx, hu.setCtx, hg.complete])

include hg hu in
theorem seedCommand_unseen {c c' : γ} (hc : c' = c) : seedCommand u c' (g s) = g (seedCommand u c s) := by
  rw [seedCommand, hc, construct_unseen hu, hg.complete, seedCommand]

include hg hu in
theorem seedeCommand_unseen (answer : Nat → γ) : seedeCommand u answer (g s) = g (seedeCommand u answer s) := by
  simp only [seedeCommand, hg.draws, hg.setDraws, hg.raiseFault, construct_unseen hu, hg.complete, apply_ite g]

include hg hu in
theorem seedaCommand_unseen (W size maxLen : Nat) (init : List (BitVec W) → γ) :
    seedaCommand u W size maxLen init (g s) = g (seedaCommand u W size maxLen init s) := by
  simp only [seedaCommand, opKeyLength, opKey, hg.a, hg.raiseFault, memRead_unseen hg, construct_unseen hu,
    hg.complete]
  exact (apply_ite g _ _ _).symm

include hg hu in
theorem saveCommand_unseen (len : Nat) (enc : γ → List Byte) :
    saveCommand u len enc (g s) = g (saveCommand u len enc s) :=
  checkValid_unseen hg hu s (by simp only [memWrite, hu.ctx, hg.buf, hg.setBuf, hg.complete])

include hg hu in
theorem loadCommand_unseen (len : Nat) (dec : List Byte → Option γ) :
    loadCommand u len dec (g s) = g (loadCommand u len dec s) := by
  simp only [loadCommand, hg.len, memRead_unseen hg, hg.completeRejected, apply_ite g]
  cases dec (memRead 0 len s).1 with
  | none => rfl
  | some c => simp only [construct_unseen hu, hg.complete]

include hg in
/-- The frame of the W128 commands that leave C: the value goes to R (40_w128.md R103 to R109). -/
theorem valueCommand_unseen {n : Nat} {v v' : BitVec n} (hv : v' = v) :
    complete (setR v' (g s)) = g (complete (setR v s)) := by
  rw [hv, hg.setR, hg.complete]

include hg in
/-- The frame of `w128.add` and `w128.adc`: the sum goes to R, its carry to C (40_w128.md R101, R102). -/
theorem sumCommand_unseen (hc : UnseenByCarry g) {k k' : Bool} (hk : k' = k) :
    complete { setR (sumLow (wideSum (g s).a (g s).b k')) (g s) with c := sumCarry (wideSum (g s).a (g s).b k') }
      = g (complete { setR (sumLow (wideSum s.a s.b k)) s with c := sumCarry (wideSum s.a s.b k) }) := by
  rw [hk, hg.a, hg.b, hg.setR, hc.setC, hg.complete]

/-- MT32 JUMP: its two faults and its move of the context (42_mt.md R227). -/
theorem mt32Jump_unseen {g : State → State} (hg : Unseen g) (hu : UnseenBy mt32Unit g) (s : State) :
    execMt32Jump (g s) = thenChange g (execMt32Jump s) := by
  have hn : opJumpCount (g s) = opJumpCount s := by rw [opJumpCount, opA64, hg.a, opJumpCount, opA64]
  have hmove (k : Nat) : complete (mt32Unit.setCtx (jumpMt32 (mt32Unit.ctx (g s)) k) (g s))
      = g (complete (mt32Unit.setCtx (jumpMt32 (mt32Unit.ctx s) k) s)) := by
    rw [hu.ctx, hu.setCtx, hg.complete]
  refine congrArg Host.Outcome.next (checkValid_unseen hg hu s ?_)
  rw [hn, hg.raiseFault, apply_ite g]
  exact congrArg (ite _ _) (hmove _)

end

/-! ### Every command -/

section

variable {i : Instr} {g : State → State} (hg : Unseen g) (h1 : unitOf i = 1 → UnseenBy mt32Unit g)
  (h2 : unitOf i = 2 → UnseenBy mt64Unit g) (h3 : unitOf i = 3 → UnseenBy pcg32Unit g)
  (h4 : unitOf i = 4 → UnseenBy pcg64Unit g) (hc : i = .w128Add ∨ i = .w128Adc → UnseenByCarry g) (s : State)

include hg h1 h2 h3 h4 hc in
/-- A change unseen by the shared operations and by what the command's own unit uses commutes with the command. -/
theorem exec_unseen : exec i (g s) = thenChange g (exec i s) := by
  have ha32 : opA32 (g s) = opA32 s := by rw [opA32, hg.a, opA32]
  have ha64 : opA64 (g s) = opA64 s := by rw [opA64, hg.a, opA64]
  have hb64 : opB64 (g s) = opB64 s := by rw [opB64, hg.b, opB64]
  cases i with
  | nop => exact congrArg Host.Outcome.next (hg.complete s)
  | mt32Seed => exact congrArg Host.Outcome.next (seedCommand_unseen hg (h1 rfl) s (congrArg init32 ha32))
  | mt32Seeda => exact congrArg Host.Outcome.next (seedaCommand_unseen hg (h1 rfl) s _ _ _ _)
  | mt32Seede => exact congrArg Host.Outcome.next (seedeCommand_unseen hg (h1 rfl) s _)
  | mt32Next32 | mt32Next64 | mt32Next128 | mt32Bit =>
    exact congrArg Host.Outcome.next (drawCommand_unseen hg (h1 rfl) s _)
  | mt32Jump => exact mt32Jump_unseen hg (h1 rfl) s
  | mt32Save => exact congrArg Host.Outcome.next (saveCommand_unseen hg (h1 rfl) s _ _)
  | mt32Load => exact congrArg Host.Outcome.next (loadCommand_unseen hg (h1 rfl) s _ _)
  | mt64Seed => exact congrArg Host.Outcome.next (seedCommand_unseen hg (h2 rfl) s (congrArg init64 ha64))
  | mt64Seeda => exact congrArg Host.Outcome.next (seedaCommand_unseen hg (h2 rfl) s _ _ _ _)
  | mt64Seede => exact congrArg Host.Outcome.next (seedeCommand_unseen hg (h2 rfl) s _)
  | mt64Next32 | mt64Next64 | mt64Next128 | mt64Bit =>
    exact congrArg Host.Outcome.next (drawCommand_unseen hg (h2 rfl) s _)
  | mt64Save => exact congrArg Host.Outcome.next (saveCommand_unseen hg (h2 rfl) s _ _)
  | mt64Load => exact congrArg Host.Outcome.next (loadCommand_unseen hg (h2 rfl) s _ _)
  | pcg32Seed =>
    exact congrArg Host.Outcome.next
      (seedCommand_unseen hg (h3 rfl) s (by rw [ha64, hb64]))
  | pcg32Seede => exact congrArg Host.Outcome.next (seedeCommand_unseen hg (h3 rfl) s _)
  | pcg32Next32 | pcg32Next64 | pcg32Next128 | pcg32Bit =>
    exact congrArg Host.Outcome.next (drawCommand_unseen hg (h3 rfl) s _)
  | pcg32Adv => exact congrArg Host.Outcome.next (moveCommand_unseen hg (h3 rfl) s (by rw [ha64]))
  | pcg32Save => exact congrArg Host.Outcome.next (saveCommand_unseen hg (h3 rfl) s _ _)
  | pcg32Load => exact congrArg Host.Outcome.next (loadCommand_unseen hg (h3 rfl) s _ _)
  | pcg64Seed =>
    exact congrArg Host.Outcome.next
      (seedCommand_unseen hg (h4 rfl) s (by rw [hg.a, hg.b]))
  | pcg64Seede => exact congrArg Host.Outcome.next (seedeCommand_unseen hg (h4 rfl) s _)
  | pcg64Next32 | pcg64Next64 | pcg64Next128 | pcg64Bit =>
    exact congrArg Host.Outcome.next (drawCommand_unseen hg (h4 rfl) s _)
  | pcg64Adv => exact congrArg Host.Outcome.next (moveCommand_unseen hg (h4 rfl) s (by rw [hg.a]))
  | pcg64Save => exact congrArg Host.Outcome.next (saveCommand_unseen hg (h4 rfl) s _ _)
  | pcg64Load => exact congrArg Host.Outcome.next (loadCommand_unseen hg (h4 rfl) s _ _)
  | w128Add => exact congrArg Host.Outcome.next (sumCommand_unseen hg s (hc (.inl rfl)) rfl)
  | w128Adc => exact congrArg Host.Outcome.next (sumCommand_unseen hg s (hc (.inr rfl)) ((hc (.inr rfl)).c s))
  | w128Mulw =>
    exact congrArg Host.Outcome.next
      (valueCommand_unseen hg s (by rw [ha64, hb64]))
  | w128Mul => exact congrArg Host.Outcome.next (valueCommand_unseen hg s (by rw [hg.a, hg.b]))
  | w128Shl => exact congrArg Host.Outcome.next (valueCommand_unseen hg s (by rw [opShiftAmount, hg.a, hg.b]; rfl))
  | w128Shr => exact congrArg Host.Outcome.next (valueCommand_unseen hg s (by rw [opShiftAmount, hg.a, hg.b]; rfl))
  | w128Rotr => exact congrArg Host.Outcome.next (valueCommand_unseen hg s (by rw [opRotate128, hg.a, hg.b]; rfl))
  | w128Rotr64 => exact congrArg Host.Outcome.next (valueCommand_unseen hg s (by rw [opRotate64, ha64, hg.b]; rfl))
  | w128Rotr32 => exact congrArg Host.Outcome.next (valueCommand_unseen hg s (by rw [opRotate32, ha32, hg.b]; rfl))

end

/-! ### Overwriting C and contexts -/

/-- What to write to C and to each context with its VALID bit, or `none` for what is to stay. -/
structure Overwrite where
  c : Option Bool := none
  mt32 : Option (Mt32 × Bool) := none
  mt64 : Option (Mt64 × Bool) := none
  pcg32 : Option (Pcg32 × Bool) := none
  pcg64 : Option (Pcg64 × Bool) := none

/-- The state with those parts overwritten. -/
def Overwrite.apply (o : Overwrite) (s : State) : State :=
  { s with
    c := o.c.getD s.c
    mt32 := (o.mt32.map Prod.fst).getD s.mt32, validMt32 := (o.mt32.map Prod.snd).getD s.validMt32
    mt64 := (o.mt64.map Prod.fst).getD s.mt64, validMt64 := (o.mt64.map Prod.snd).getD s.validMt64
    pcg32 := (o.pcg32.map Prod.fst).getD s.pcg32, validPcg32 := (o.pcg32.map Prod.snd).getD s.validPcg32
    pcg64 := (o.pcg64.map Prod.fst).getD s.pcg64, validPcg64 := (o.pcg64.map Prod.snd).getD s.validPcg64 }

namespace Overwrite

theorem unseen (o : Overwrite) : Unseen o.apply :=
  ⟨fun _ => rfl, fun _ => rfl, fun _ => rfl, fun _ => rfl, fun _ => rfl, fun _ => rfl, fun _ => rfl, fun _ _ => rfl,
    fun _ _ => rfl, fun _ _ => rfl, fun _ _ _ => rfl⟩

theorem unseenBy_mt32 {o : Overwrite} (h : o.mt32 = none) : UnseenBy mt32Unit o.apply := by
  obtain ⟨c, p, q, r, w⟩ := o
  subst h
  exact ⟨fun _ => rfl, fun _ => rfl, fun _ _ => rfl, fun _ => rfl⟩

theorem unseenBy_mt64 {o : Overwrite} (h : o.mt64 = none) : UnseenBy mt64Unit o.apply := by
  obtain ⟨c, p, q, r, w⟩ := o
  subst h
  exact ⟨fun _ => rfl, fun _ => rfl, fun _ _ => rfl, fun _ => rfl⟩

theorem unseenBy_pcg32 {o : Overwrite} (h : o.pcg32 = none) : UnseenBy pcg32Unit o.apply := by
  obtain ⟨c, p, q, r, w⟩ := o
  subst h
  exact ⟨fun _ => rfl, fun _ => rfl, fun _ _ => rfl, fun _ => rfl⟩

theorem unseenBy_pcg64 {o : Overwrite} (h : o.pcg64 = none) : UnseenBy pcg64Unit o.apply := by
  obtain ⟨c, p, q, r, w⟩ := o
  subst h
  exact ⟨fun _ => rfl, fun _ => rfl, fun _ _ => rfl, fun _ => rfl⟩

theorem unseenByCarry {o : Overwrite} (h : o.c = none) : UnseenByCarry o.apply := by
  obtain ⟨c, p, q, r, w⟩ := o
  subst h
  exact ⟨fun _ => rfl, fun _ _ => rfl⟩

/-- Overwriting what a command does not use, before it or after it, gives the same next state. -/
theorem exec_apply (o : Overwrite) {i : Instr} {s t : State} (h : exec i s = .next t)
    (h1 : unitOf i = 1 → o.mt32 = none) (h2 : unitOf i = 2 → o.mt64 = none) (h3 : unitOf i = 3 → o.pcg32 = none)
    (h4 : unitOf i = 4 → o.pcg64 = none) (hc : i = .w128Add ∨ i = .w128Adc → o.c = none) :
    exec i (o.apply s) = .next (o.apply t) := by
  rw [exec_unseen o.unseen (fun e => unseenBy_mt32 (h1 e)) (fun e => unseenBy_mt64 (h2 e))
    (fun e => unseenBy_pcg32 (h3 e)) (fun e => unseenBy_pcg64 (h4 e)) (fun e => unseenByCarry (hc e)), h, thenChange]

end Overwrite

/-- Only `w128.add` and `w128.adc` write C (10_state.md R24). -/
theorem exec_keeps_c {i : Instr} {s t : State} (h : exec i s = .next t) (hadd : i ≠ .w128Add)
    (hadc : i ≠ .w128Adc) : t.c = s.c := by
  rcases exec_cases h with ⟨code, d, -, -, rfl⟩ | ⟨-, d, rfl⟩ | ⟨-, bytes, len, -, rfl⟩ | ⟨-, rfl⟩ |
    ⟨-, r, c, hc, rfl⟩ | ⟨-, r, c, v, d, -, -, rfl⟩ | ⟨-, r, c, v, d, -, -, rfl⟩ |
    ⟨-, r, c, v, d, -, -, rfl, -⟩ | ⟨-, r, c, v, d, -, -, rfl, -⟩
  · rfl
  · rfl
  · rfl
  · rfl
  · exact hc hadd hadc
  all_goals rfl

/-- Settles O18: overwriting C commutes with every command that neither reads nor writes it; `w128.add` writes the
carry of its own sum, whatever C was. -/
theorem carryOnlyInAddAndAdc : Obligations.CarryOnlyInAddAndAdc := by
  intro i s t x h
  refine ⟨exec_keeps_c h, fun hadc => ?_⟩
  by_cases hadd : i = .w128Add
  · subst hadd
    rw [if_pos rfl]
    exact h
  · rw [if_neg hadd]
    exact Overwrite.exec_apply { c := some x } h (fun _ => rfl) (fun _ => rfl) (fun _ => rfl) (fun _ => rfl)
      fun hi => absurd hi (not_or_intro hadd hadc)

/-- Settles O19: overwriting one unit's context and VALID bit commutes with every command of another unit. -/
theorem contextsAreIndependent : Obligations.ContextsAreIndependent := by
  intro i s t v h
  refine ⟨fun hi c => ?_, fun hi c => ?_, fun hi c => ?_, fun hi c => ?_⟩
  · exact Overwrite.exec_apply { mt32 := some (c, v) } h (absurd · hi) (fun _ => rfl) (fun _ => rfl) (fun _ => rfl)
      fun _ => rfl
  · exact Overwrite.exec_apply { mt64 := some (c, v) } h (fun _ => rfl) (absurd · hi) (fun _ => rfl) (fun _ => rfl)
      fun _ => rfl
  · exact Overwrite.exec_apply { pcg32 := some (c, v) } h (fun _ => rfl) (fun _ => rfl) (absurd · hi) (fun _ => rfl)
      fun _ => rfl
  · exact Overwrite.exec_apply { pcg64 := some (c, v) } h (fun _ => rfl) (fun _ => rfl) (fun _ => rfl) (absurd · hi)
      fun _ => rfl

end Sys2Proof.Machine
end

section
/-! PROOFS. Registers software reads, reset, and reads of BUF (10_state.md R27, R39, R40). -/

namespace Sys2Proof.Machine

/-! ### MemRead and the numbering of its free values (10_state.md R40) -/

/-- A read is a read of its first bytes and then one of the rest, which goes on with the free values' numbers. -/
theorem read_add (m : Memory) (n k a d : Nat) :
    m.read (n + k) a d
      = ((m.read n a d).1 ++ (m.read k (a + n) (m.read n a d).2).1, (m.read k (a + n) (m.read n a d).2).2) := by
  induction n generalizing a d with
  | zero => simp [Memory.read]
  | succ n ih =>
    rw [Nat.succ_add, Memory.read, Memory.read, Nat.add_comm n 1, ← Nat.add_assoc a 1 n]
    cases m.byte? a <;> simp [ih]

/-- The number of the free value that byte `i` takes where nothing has written it: the count after the bytes before
it. -/
def freeNumber (m : Memory) (a d i : Nat) : Nat := (m.read i a d).2

theorem le_freeNumber (m : Memory) (a d i : Nat) : d ≤ freeNumber m a d i := le_read_snd m i a d

/-- Byte `i` of a read, where nothing has written it. -/
theorem read_of_unwritten {m : Memory} {n a d i : Nat} (hi : i < n) (hb : m.byte? (a + i) = none) :
    (m.read n a d).1[i]? = some (Config.unwrittenByte (freeNumber m a d i)) ∧
      freeNumber m a d i < freeNumber m a d n := by
  obtain ⟨k, rfl⟩ := Nat.exists_eq_add_of_lt hi
  have hlen := length_read m i a d
  rw [Nat.add_assoc, freeNumber, freeNumber, read_add, Memory.read, hb]
  refine ⟨?_, ?_⟩
  · rw [List.getElem?_append_right (by omega), hlen, Nat.sub_self]
    rfl
  · exact le_read_snd m k _ _

/-- Settles O40: each unwritten byte takes a number above those of the unwritten bytes before it. -/
theorem unwrittenBytesAreDraws : Obligations.UnwrittenBytesAreDraws := by
  intro s addr n
  refine ⟨freeNumber s.buf addr s.draws, fun i j _ _ hi hj he => ?_, fun i hi =>
    ⟨fun x hx => read_getElem_of_written s.buf n addr s.draws i x hi hx, fun hb => ?_⟩⟩
  · rcases Nat.lt_trichotomy i j with hlt | heq | hgt
    · exact absurd he (Nat.ne_of_lt (read_of_unwritten hlt hi).2)
    · exact heq
    · exact absurd he (Nat.ne_of_gt (read_of_unwritten hgt hj).2)
  · obtain ⟨hget, hlt⟩ := read_of_unwritten (d := s.draws) hi hb
    exact ⟨hget, le_freeNumber s.buf addr s.draws i, hlt⟩

/-! ### STATUS and reset -/

/-- The value of one word above another. -/
theorem toNat_append_eq {n m : Nat} (x : BitVec n) (y : BitVec m) :
    (x ++ y).toNat = 2 ^ m * x.toNat + y.toNat := by
  rw [BitVec.toNat_append, Nat.shiftLeft_eq, Nat.mul_comm, Nat.two_pow_add_eq_or_of_lt y.isLt]

/-- STATUS as a sum of its fields, each at its place (10_state.md R27). -/
theorem statusWord_toNat (s : State) : (statusWord s).toNat
    = 2048 * s.validPcg64.toNat + 1024 * s.validPcg32.toNat + 512 * s.validMt64.toNat + 256 * s.validMt32.toNat
      + 16 * (faultCodeBits s.code).toNat + 4 * s.rj.toNat + 2 * s.fault.toNat + s.busy.toNat := by
  simp only [statusWord, toNat_append_eq, BitVec.toNat_ofBool, BitVec.ofNat_eq_ofNat, BitVec.toNat_zero]
  omega

/-- The one-bit fields of STATUS and its reserved bit 3 (10_state.md R27). -/
theorem statusWord_bits (s : State) :
    (statusWord s).getLsbD 0 = s.busy ∧ (statusWord s).getLsbD 1 = s.fault ∧ (statusWord s).getLsbD 2 = s.rj
      ∧ (statusWord s).getLsbD 3 = false ∧ (statusWord s).getLsbD 8 = s.validMt32
      ∧ (statusWord s).getLsbD 9 = s.validMt64 ∧ (statusWord s).getLsbD 10 = s.validPcg32
      ∧ (statusWord s).getLsbD 11 = s.validPcg64 := by
  simp only [statusWord, BitVec.getLsbD_append]
  simp

/-- CODE stands in bits 7:4, below the VALID bits and above the other fields (10_state.md R27). -/
theorem statusWord_code (s : State) : (statusWord s).toNat / 16 % 16 = (faultCodeBits s.code).toNat := by
  have hv := statusWord_toNat s
  have hbusy := Bool.toNat_le s.busy
  have hfault := Bool.toNat_le s.fault
  have hrj := Bool.toNat_le s.rj
  have hcode := (faultCodeBits s.code).isLt
  omega

/-- The bits of STATUS above the VALID bits are 0 (10_state.md R27). -/
theorem statusWord_lt (s : State) : (statusWord s).toNat < 4096 := by
  have hv := statusWord_toNat s
  have hbusy := Bool.toNat_le s.busy
  have hfault := Bool.toNat_le s.fault
  have hrj := Bool.toNat_le s.rj
  have hcode := (faultCodeBits s.code).isLt
  have hmt32 := Bool.toNat_le s.validMt32
  have hmt64 := Bool.toNat_le s.validMt64
  have hpcg32 := Bool.toNat_le s.validPcg32
  have hpcg64 := Bool.toNat_le s.validPcg64
  omega

/-- Settles O33: the fields of STATUS, put together. -/
theorem statusWordFields : Obligations.StatusWordFields := by
  intro s
  obtain ⟨hbusy, hfault, hrj, hreserved, hmt32, hmt64, hpcg32, hpcg64⟩ := statusWord_bits s
  refine ⟨hbusy, hfault, hrj, hreserved, ?_, hmt32, hmt64, hpcg32, hpcg64, statusWord_lt s⟩
  rw [statusWord_code]
  cases s.code <;> rfl

/-- Settles O35: the values written out in the state after reset; nothing is listed in BUF. -/
theorem resetValues : Obligations.ResetValues :=
  ⟨rfl, rfl, rfl, rfl, rfl, rfl, rfl, byte?_nil⟩

end Sys2Proof.Machine
end

section
/-! PROOFS. Port accesses (20_memory.md R51 to R61): the map's ranges, what a read of each register answers, what a
write of it leaves, and MemRead after MemWrite. -/

namespace Sys2Proof.Machine

/-! ### The map (20_memory.md R51) -/

theorem portReg_a {off : Nat} (h : 0x0010 ≤ off ∧ off < 0x0020) : portReg off = .a ((off - 0x0010) / 4) := by
  rw [portReg, if_neg (by omega), if_neg (by omega), if_neg (by omega), if_neg (by omega), if_pos h]

theorem portReg_b {off : Nat} (h : 0x0020 ≤ off ∧ off < 0x0030) : portReg off = .b ((off - 0x0020) / 4) := by
  rw [portReg, if_neg (by omega), if_neg (by omega), if_neg (by omega), if_neg (by omega), if_neg (by omega),
    if_pos h]

theorem portReg_r {off : Nat} (h : 0x0030 ≤ off ∧ off < 0x0040) : portReg off = .r ((off - 0x0030) / 4) := by
  rw [portReg, if_neg (by omega), if_neg (by omega), if_neg (by omega), if_neg (by omega), if_neg (by omega),
    if_neg (by omega), if_pos h]

theorem portReg_buf {off : Nat} (h : 0x1000 ≤ off ∧ off < 0x19C4) : portReg off = .buf ((off - 0x1000) / 4) := by
  rw [portReg, if_neg (by omega), if_neg (by omega), if_neg (by omega), if_neg (by omega), if_neg (by omega),
    if_neg (by omega), if_neg (by omega), if_pos h]

theorem portReg_reserved {off : Nat} (h : (0x0040 ≤ off ∧ off < 0x1000) ∨ 0x19C4 ≤ off) :
    portReg off = .reserved := by
  rw [portReg, if_neg (by omega), if_neg (by omega), if_neg (by omega), if_neg (by omega), if_neg (by omega),
    if_neg (by omega), if_neg (by omega), if_neg (by omega)]

theorem portReg_a_word {k : Nat} (h : k < 4) : portReg (0x0010 + 4 * k) = .a k := by
  rw [portReg_a (by omega), Nat.add_sub_cancel_left, Nat.mul_div_cancel_left k (by omega)]

theorem portReg_b_word {k : Nat} (h : k < 4) : portReg (0x0020 + 4 * k) = .b k := by
  rw [portReg_b (by omega), Nat.add_sub_cancel_left, Nat.mul_div_cancel_left k (by omega)]

theorem portReg_buf_word {k : Nat} (h : k < 625) : portReg (0x1000 + 4 * k) = .buf k := by
  rw [portReg_buf (by omega), Nat.add_sub_cancel_left, Nat.mul_div_cancel_left k (by omega)]

/-- CMD has one offset. -/
theorem portReg_ne_cmd {off : Nat} (h : off ≠ 0) : portReg off ≠ .cmd := by
  rw [portReg, if_neg h]
  repeat' split
  all_goals exact PortReg.noConfusion

/-! ### Reads -/

theorem readWhenIdle_of_busy {s : State} (idle : Word32 × State) (h : s.busy = true) :
    readWhenIdle s idle = (Config.busyRead s.draws, { s with draws := s.draws + 1 }) := if_pos h

theorem readWhenIdle_of_idle {s : State} (idle : Word32 × State) (h : s.busy = false) :
    readWhenIdle s idle = idle := by
  rw [readWhenIdle, h]
  rfl

theorem readPort_len_of_idle {s : State} (h : s.busy = false) :
    readPort .len s = (BitVec.ofNat 32 s.len.toNat, s) := by
  rw [readPort, readWhenIdle_of_idle _ h, lenWord, BitVec.ofNat_toNat]

/-- FLAGS is the number of C, its one bit (10_state.md R24). -/
theorem flagsWord_eq_ofNat (s : State) : flagsWord s = BitVec.ofNat 32 s.c.toNat := by
  rw [flagsWord]
  cases s.c <;> rfl

theorem readPort_flags_of_idle {s : State} (h : s.busy = false) :
    readPort .flags s = (BitVec.ofNat 32 s.c.toNat, s) := by
  rw [readPort, readWhenIdle_of_idle _ h, flagsWord_eq_ofNat]

theorem readPort_r_of_idle {s : State} (k : Nat) (h : s.busy = false) :
    readPort (.r k) s = (portWord s.r k, s) := readWhenIdle_of_idle _ h

theorem readPort_buf_of_idle {s : State} (k : Nat) (h : s.busy = false) :
    readPort (.buf k) s = (BitVec.ofNat 32 (leValue (memRead (4 * k) 4 s).1), (memRead (4 * k) 4 s).2) :=
  readWhenIdle_of_idle _ h

/-- Settles O29: each range of offsets is one register's, and each register reads as its lemma says. -/
theorem readWhileBusy : Obligations.ReadWhileBusy := by
  intro s off haligned _
  refine ⟨fun hb h => ?_, fun h => ?_, fun h => ?_, fun h => ?_, fun h => ?_, fun hb =>
    ⟨fun h => ?_, fun h => ?_, fun h => ?_, fun h => ?_⟩⟩
  · rcases h with rfl | rfl | h | h
    · exact readWhenIdle_of_busy _ hb
    · exact readWhenIdle_of_busy _ hb
    · rw [portReg_r h]
      exact readWhenIdle_of_busy _ hb
    · rw [portReg_buf h]
      exact readWhenIdle_of_busy _ hb
  · rw [h]
    rfl
  · rw [portReg_a h]
    rfl
  · rw [portReg_b h]
    rfl
  · rcases h with rfl | h
    · rfl
    · rw [portReg_reserved h]
      rfl
  · rw [h]
    exact readPort_len_of_idle hb
  · rw [h]
    exact readPort_flags_of_idle hb
  · rw [portReg_r h, readPort_r_of_idle _ hb]
  · have hword : 4 * ((off - 0x1000) / 4) = off - 0x1000 := by omega
    rw [portReg_buf h, readPort_buf_of_idle _ hb, hword]

/-! ### Writes -/

theorem writePort_len_of_idle {s : State} (v : Word32) (h : s.busy = false) :
    writePort .len v s = { s with len := BitVec.ofNat 16 (v.toNat % 2 ^ 16) } := by
  have hv : v.extractLsb' 0 16 = BitVec.ofNat 16 (v.toNat % 2 ^ 16) := by
    apply BitVec.eq_of_toNat_eq
    simp
  rw [writePort, writeWhenIdle_of_idle _ h, hv]

theorem writePort_flags_of_idle {s : State} (v : Word32) (h : s.busy = false) :
    writePort .flags v s = { s with c := decide (v.toNat % 2 = 1) } := by
  have hv : v.getLsbD 0 = decide (v.toNat % 2 = 1) := Nat.testBit_zero v.toNat
  rw [writePort, writeWhenIdle_of_idle _ h, hv]

theorem writePort_a_of_idle {s : State} (k : Nat) (v : Word32) (h : s.busy = false) :
    writePort (.a k) v s = { s with a := setPortWord s.a k v } := writeWhenIdle_of_idle _ h

theorem writePort_b_of_idle {s : State} (k : Nat) (v : Word32) (h : s.busy = false) :
    writePort (.b k) v s = { s with b := setPortWord s.b k v } := writeWhenIdle_of_idle _ h

theorem writePort_buf_of_idle {s : State} (k : Nat) (v : Word32) (h : s.busy = false) :
    writePort (.buf k) v s = memWrite (4 * k) (leBytes 4 v.toNat) s := writeWhenIdle_of_idle _ h

/-- Settles O31, from the map's reserved offsets and the idle reads and writes of LEN and FLAGS. -/
theorem reservedAndReadOnlyOffsets : Obligations.ReservedAndReadOnlyOffsets := by
  intro s off v _ _
  refine ⟨fun h => ?_, fun h => ?_, fun h => ?_, fun h hb => ?_, fun h hb => ?_⟩
  · rw [portReg_reserved h]
    exact ⟨rfl, rfl⟩
  · rw [h]
    rfl
  · rcases h with rfl | h
    · rfl
    · rw [portReg_r h]
      rfl
  · rw [h]
    exact ⟨writePort_len_of_idle v hb, readPort_len_of_idle hb⟩
  · rw [h]
    exact ⟨writePort_flags_of_idle v hb, readPort_flags_of_idle hb⟩

/-! ### The same write twice (20_memory.md R57) -/

/-- The first fault's code is kept, so a second record of the same fault changes nothing (60_exceptions.md R401). -/
theorem recordFault_twice (code : FaultCode) (s : State) :
    recordFault code (recordFault code s) = recordFault code s := by
  by_cases h : s.code = .none <;> simp [recordFault, h]

theorem setPortWord_twice (w : Word128) (k : Nat) (x : Word32) :
    setPortWord (setPortWord w k x) k x = setPortWord w k x := by
  apply BitVec.eq_of_getLsbD_eq
  intro i hi
  simp only [setPortWord, BitVec.getLsbD_or, BitVec.getLsbD_and]
  generalize w.getLsbD i = old
  generalize (~~~((0xFFFFFFFF : Word128) <<< (32 * k))).getLsbD i = keep
  generalize (x.setWidth 128 <<< (32 * k)).getLsbD i = new
  revert old keep new
  decide

theorem le_of_mem_cellsFrom {a : Nat} {bs : List Byte} {cell : Host.Cell} (h : cell ∈ cellsFrom a bs) :
    a ≤ cell.1 := by
  induction bs generalizing a with
  | nil => simp [cellsFrom] at h
  | cons b bs ih =>
    rcases List.mem_cons.1 h with rfl | h
    · exact Nat.le_refl a
    · exact Nat.le_of_succ_le (ih h)

/-- A write leaves the listed bytes below it: its own bytes and those above stand at or above its place. -/
theorem below_write (m : Memory) (a : Nat) (bs : List Byte) : (m.write a bs).below a = m.below a := by
  have hcells : (cellsFrom a bs).filter (fun cell => decide (cell.1 < a)) = [] :=
    List.filter_eq_nil_iff.2 fun cell hc => by simpa using le_of_mem_cellsFrom hc
  have hfrom : (m.from (a + bs.length)).filter (fun cell => decide (cell.1 < a)) = [] :=
    List.filter_eq_nil_iff.2 fun cell hc => by
      have := (List.mem_filter.1 hc).2
      simp only [decide_eq_true_eq] at this ⊢
      omega
  simp only [Memory.write, Memory.below, List.filter_append, List.filter_filter, Bool.and_self, hcells, hfrom,
    List.append_nil]

/-- A write leaves the listed bytes from its end on: its own bytes and those below stand below its end. -/
theorem from_write (m : Memory) (a : Nat) (bs : List Byte) :
    (m.write a bs).from (a + bs.length) = m.from (a + bs.length) := by
  have hcells : (cellsFrom a bs).filter (fun cell => decide (a + bs.length ≤ cell.1)) = [] :=
    List.filter_eq_nil_iff.2 fun cell hc => by simpa using lt_of_mem_cellsFrom hc
  have hbelow : (m.below a).filter (fun cell => decide (a + bs.length ≤ cell.1)) = [] :=
    List.filter_eq_nil_iff.2 fun cell hc => by
      have := (List.mem_filter.1 hc).2
      simp only [decide_eq_true_eq] at this ⊢
      omega
  simp only [Memory.write, Memory.from, List.filter_append, List.filter_filter, Bool.and_self, hcells, hbelow,
    List.nil_append]

theorem write_twice (m : Memory) (a : Nat) (bs : List Byte) : (m.write a bs).write a bs = m.write a bs := by
  rw [Memory.write, below_write, from_write, ← Memory.write]

/-- A write that is dropped with a HAZARD while a command is in flight, and while idle may be repeated, may be repeated
in every state. -/
theorem writeWhenIdle_twice {write : State → State} (s : State) (hbusy : (write s).busy = s.busy)
    (htwice : write (write s) = write s) :
    writeWhenIdle (writeWhenIdle s (write s)) (write (writeWhenIdle s (write s))) = writeWhenIdle s (write s) := by
  cases hb : s.busy with
  | true =>
    rw [writeWhenIdle_of_busy (write s) hb, writeWhenIdle_of_busy _ (show (recordFault .hazard s).busy = true from hb),
      recordFault_twice]
  | false => rw [writeWhenIdle_of_idle (write s) hb, writeWhenIdle_of_idle _ (hbusy.trans hb), htwice]

/-- A write of any register but CMD may be repeated (20_memory.md R57). -/
theorem writePort_twice {p : PortReg} (v : Word32) (s : State) (h : p ≠ .cmd) :
    writePort p v (writePort p v s) = writePort p v s := by
  cases p with
  | cmd => exact absurd rfl h
  | status | r _ | reserved => rfl
  | len => exact writeWhenIdle_twice (write := fun s => { s with len := v.extractLsb' 0 16 }) s rfl rfl
  | flags => exact writeWhenIdle_twice (write := fun s => { s with c := v.getLsbD 0 }) s rfl rfl
  | a k =>
    refine writeWhenIdle_twice (write := fun s => { s with a := setPortWord s.a k v }) s rfl ?_
    simp only [setPortWord_twice]
  | b k =>
    refine writeWhenIdle_twice (write := fun s => { s with b := setPortWord s.b k v }) s rfl ?_
    simp only [setPortWord_twice]
  | buf k =>
    refine writeWhenIdle_twice (write := memWrite (4 * k) (leBytes 4 v.toNat)) s rfl ?_
    simp only [memWrite, write_twice]

/-- Settles O32: a read advances the count of free values at most, and only offset 0 is CMD's. -/
theorem onlyCommandWritesHaveSideEffects : Obligations.OnlyCommandWritesHaveSideEffects :=
  ⟨fun s off => readPort_snd (portReg off) s, fun s _ v h => writePort_twice v s (portReg_ne_cmd h)⟩

/-! ### Reading what was written -/

theorem memRead_memWrite_leBytes (addr n v : Nat) (s : State) :
    memRead addr n (memWrite addr (leBytes n v) s) = (leBytes n v, memWrite addr (leBytes n v) s) := by
  have h := read_write_self s.buf addr s.draws (leBytes n v)
  rw [length_leBytes] at h
  simp only [memRead, memWrite, h]

theorem byte?_memWrite_leBytes_of_outside {addr n x : Nat} (v : Nat) (s : State) (h : x < addr ∨ addr + n ≤ x) :
    Memory.byte? (memWrite addr (leBytes n v) s).buf x = Memory.byte? s.buf x :=
  byte?_write_of_outside s.buf addr (leBytes n v) x (by rwa [length_leBytes])

/-- Settles O39: the bytes read are the bytes written, and their value is the written one's lowest bytes. -/
theorem memWriteThenMemRead : Obligations.MemWriteThenMemRead := by
  intro s addr n v
  refine ⟨?_, ?_, rfl, fun x hx => byte?_memWrite_leBytes_of_outside v s hx⟩
  · rw [memRead_memWrite_leBytes, leValue_leBytes, Nat.pow_mul]
  · rw [memRead_memWrite_leBytes]

/-- A port word of BUF is its four bytes (20_memory.md R61). -/
theorem readPort_buf_memWrite {s : State} (k : Nat) (v : Word32) (h : s.busy = false) :
    readPort (.buf k) (memWrite (4 * k) (leBytes 4 v.toNat) s) = (v, memWrite (4 * k) (leBytes 4 v.toNat) s) := by
  rw [readPort_buf_of_idle k (show (memWrite _ _ s).busy = false from h), memRead_memWrite_leBytes,
    ofNat_toNat_leBytes rfl]

/-- Settles O30: a port word replaced reads as its new value, and the other words as before. -/
theorem portWriteThenRead : Obligations.PortWriteThenRead := by
  intro s v hb
  refine ⟨fun k hk => ?_, fun k hk => ?_, fun k hk => ?_⟩
  · rw [portReg_a_word hk, writePort_a_of_idle k v hb]
    refine ⟨?_, rfl, fun j _ hj => ?_⟩
    · simp only [readPort, portWord_setPortWord s.a v hk, if_pos]
    · exact (portWord_setPortWord s.a v hk).trans (if_neg hj)
  · rw [portReg_b_word hk, writePort_b_of_idle k v hb]
    refine ⟨?_, rfl, fun j _ hj => ?_⟩
    · simp only [readPort, portWord_setPortWord s.b v hk, if_pos]
    · exact (portWord_setPortWord s.b v hk).trans (if_neg hj)
  · rw [portReg_buf_word hk, writePort_buf_of_idle k v hb]
    exact ⟨readPort_buf_memWrite k v hb, rfl, fun x hx => byte?_memWrite_leBytes_of_outside v.toNat s hx⟩

/-! ### Accesses that are not admitted (20_memory.md R55) -/

theorem accessAdmitted_eq_false {width off : Nat} (h : width ≠ 32 ∨ off % 4 ≠ 0 ∨ 0x2000 ≤ off) :
    accessAdmitted width off = false := by
  rcases h with h | h | h <;> simp [accessAdmitted, h]

theorem hostHasStep_of_stmt {s : State} {st : HostStmt} (h : hostStmt s = some st) : hostHasStep s = st.hasStep := by
  rw [hostHasStep, h]

/-- A host without a step leaves the engine to move, while a command is in flight. -/
theorem nextAgent_of_stuck {s : State} (h : hostHasStep s = false) :
    nextAgent s = if s.busy then some .engine else none := by
  simp [nextAgent, h]

theorem noStep_of_stmt {s : State} {st : HostStmt} (h : hostStmt s = some st) :
    noStep s = .fault .accessNotAdmitted := by
  rw [noStep, h]

/-- The host is stuck at a statement that has no step, and the machine with it once the block is idle. -/
theorem stuck_of_hasStep_eq_false {s : State} {st : HostStmt} (hst : hostStmt s = some st)
    (h : st.hasStep = false) :
    nextAgent s ≠ some .host ∧ (s.busy = false → step s = .fault .accessNotAdmitted) := by
  have hn := nextAgent_of_stuck ((hostHasStep_of_stmt hst).trans h)
  refine ⟨fun hhost => ?_, fun hb => ?_⟩
  · rw [hn] at hhost
    cases s.busy <;> simp at hhost
  · rw [hb] at hn
    rw [step_of_none hn, noStep_of_stmt hst]

/-- Settles O6: reads and writes alike have a step only where the access is admitted. -/
theorem unadmittedAccessHasNoStep : Obligations.UnadmittedAccessHasNoStep := by
  intro s width off x v h hst
  have hadmitted := accessAdmitted_eq_false h
  rcases hst with hst | hst
  · exact stuck_of_hasStep_eq_false hst hadmitted
  · exact stuck_of_hasStep_eq_false hst hadmitted

end Sys2Proof.Machine
end

section
/-! PROOFS. Encoding and decoding (30_encoding.md R80 to R85): the fields of a word as parts of its value, the words
that are commands, and what the engine does with the others. -/

namespace Sys2Proof.Machine

/-! ### The fields of a word (30_encoding.md R80) -/

theorem fieldRsvd_eq_zero_iff (w : Word32) : fieldRsvd w = 0 ↔ w.toNat < 256 := by
  have hw := w.isLt
  rw [BitVec.toNat_eq, fieldRsvd, BitVec.extractLsb'_toNat, Nat.shiftRight_eq_div_pow]
  simp only [BitVec.ofNat_eq_ofNat, BitVec.toNat_zero]
  omega

theorem toNat_fieldUnit (w : Word32) : (fieldUnit w).toNat = w.toNat / 16 % 16 := by
  rw [fieldUnit, BitVec.extractLsb'_toNat, Nat.shiftRight_eq_div_pow]

theorem toNat_fieldOp (w : Word32) : (fieldOp w).toNat = w.toNat % 16 := by
  rw [fieldOp, BitVec.extractLsb'_toNat, Nat.shiftRight_zero]

/-! ### The opcode map (30_encoding.md R82, R85) -/

theorem decodeUnitOp_unitOf_opOf (i : Instr) : decodeUnitOp (unitOf i) (opOf i) = some i := by
  cases i <;> rfl

/-- Each entry of the map stands at its command's UNIT and OP. -/
theorem eq_of_decodeUnitOp {u o : Nat} {i : Instr} (h : decodeUnitOp u o = some i) : u = unitOf i ∧ o = opOf i := by
  unfold decodeUnitOp at h
  split at h <;> cases h <;> exact ⟨rfl, rfl⟩

theorem opc_eq (i : Instr) : opc i = 16 * unitOf i + opOf i := (Nat.div_add_mod (opc i) 16).symm

theorem unitOf_le (i : Instr) : unitOf i ≤ 5 := by
  cases i <;> decide

theorem opOf_lt (i : Instr) : opOf i < 16 := Nat.mod_lt _ (by decide)

theorem toNat_encode (i : Instr) : (encode i).toNat = opc i := by
  have hu := unitOf_le i
  have ho := opOf_lt i
  rw [encode, BitVec.toNat_ofNat, opc_eq]
  omega

/-- R85 lists exactly the pairs of UNIT and OP the map leaves out. -/
theorem reservedOpc_iff {n : Nat} (h : n < 256) : reservedOpc n ↔ decodeUnitOp (n / 16) (n % 16) = none := by
  have hfields : ∀ u o : Fin 16, reservedOpc (16 * u + o) ↔ decodeUnitOp u o = none := by
    unfold reservedOpc
    decide
  have hn := hfields ⟨n / 16, by omega⟩ ⟨n % 16, by omega⟩
  rwa [Nat.div_add_mod] at hn

/-! ### Decoding (30_encoding.md R81) -/

theorem decode_of_reservedBits {w : Word32} (h : 256 ≤ w.toNat) : decode w = .illegal .reservedBits := by
  have hne : fieldRsvd w ≠ 0 := fun h0 => Nat.not_lt.2 h ((fieldRsvd_eq_zero_iff w).1 h0)
  rw [decode, if_pos hne]

/-- A word with RSVD zero is its OPC, and decodes as the map says. -/
theorem decode_of_opc {w : Word32} (h : w.toNat < 256) :
    decode w = (decodeUnitOp (w.toNat / 16) (w.toNat % 16)).elim (.illegal .unassignedOpc) .command := by
  have hunit : (fieldUnit w).toNat = w.toNat / 16 := by
    rw [toNat_fieldUnit]
    omega
  rw [decode, if_neg (not_not_intro ((fieldRsvd_eq_zero_iff w).2 h)), hunit, toNat_fieldOp]
  cases decodeUnitOp (w.toNat / 16) (w.toNat % 16) <;> rfl

/-- A word R85 lists is no command's. -/
theorem decode_of_listed {w : Word32} (h : 256 ≤ w.toNat ∨ reservedOpc w.toNat) :
    ∃ why, decode w = .illegal why := by
  rcases Nat.lt_or_ge w.toNat 256 with hlt | hge
  · have hres := h.resolve_left (Nat.not_le.2 hlt)
    exact ⟨_, by rw [decode_of_opc hlt, (reservedOpc_iff hlt).1 hres]; rfl⟩
  · exact ⟨_, decode_of_reservedBits hge⟩

/-- Every other word is a command's. -/
theorem decode_of_not_listed {w : Word32} (h : ¬ (256 ≤ w.toNat ∨ reservedOpc w.toNat)) :
    ∃ i, decode w = .command i := by
  obtain ⟨hlt, hres⟩ := not_or.1 h
  rw [Nat.not_le] at hlt
  obtain ⟨i, hi⟩ := Option.ne_none_iff_exists'.1 (mt (reservedOpc_iff hlt).2 hres)
  exact ⟨i, by rw [decode_of_opc hlt, hi]; rfl⟩

theorem decode_encode (i : Instr) : decode (encode i) = .command i := by
  have hu := unitOf_le i
  have ho := opOf_lt i
  have hlt : (encode i).toNat < 256 := by
    rw [toNat_encode, opc_eq]
    omega
  rw [decode_of_opc hlt, toNat_encode, ← unitOf, ← opOf, decodeUnitOp_unitOf_opOf]
  rfl

/-- The fields of a word that decodes to a command are the command's, so its value is the command's OPC. -/
theorem toNat_of_decode {w : Word32} {i : Instr} (h : decode w = .command i) : w.toNat = opc i := by
  rcases Nat.lt_or_ge w.toNat 256 with hlt | hge
  · rw [decode_of_opc hlt] at h
    cases hmap : decodeUnitOp (w.toNat / 16) (w.toNat % 16) with
    | none => simp [hmap] at h
    | some j =>
      simp only [hmap, Option.elim_some, Decoded.command.injEq] at h
      obtain ⟨hunit, hop⟩ := eq_of_decodeUnitOp hmap
      rw [← h, opc_eq, ← hunit, ← hop, Nat.div_add_mod]
  · simp [decode_of_reservedBits hge] at h

/-- Settles O1: a word that decodes to a command has the value of that command's word, which decodes to it. -/
theorem decodeIffEncode : Obligations.DecodeIffEncode := by
  refine fun w i => ⟨fun h => BitVec.eq_of_toNat_eq ?_, fun h => ?_⟩
  · rw [toNat_of_decode h, toNat_encode]
  · rw [h, decode_encode]

/-- Settles O3: each of the six commands' words is its encoding. -/
theorem sampleWordsDecode : Obligations.SampleWordsDecode :=
  ⟨decode_encode .nop, decode_encode .mt32Jump, decode_encode .mt64Seeda, decode_encode .pcg32Adv,
    decode_encode .pcg64Save, decode_encode .w128Adc, decode_of_opc (by decide), decode_of_reservedBits (by decide)⟩

/-! ### The engine (30_encoding.md R81, R85) -/

theorem engineStep_of_command {s : State} {i : Instr} (h : decode s.pending = .command i) :
    engineStep s = exec i s := by
  rw [engineStep, h]

theorem engineStep_of_illegal {s : State} {why : Illegal} (h : decode s.pending = .illegal why) :
    engineStep s = .next (raiseFault .illegal s) := by
  rw [engineStep, h]

/-- Settles O2: R85's words are the ones that decode to no command, and raising ILLEGAL writes the four fields. -/
theorem illegalWordsRaiseIllegal : Obligations.IllegalWordsRaiseIllegal := by
  refine fun s => ⟨fun h => ?_, fun h => ?_⟩
  · obtain ⟨why, hwhy⟩ := decode_of_listed h
    rw [engineStep_of_illegal hwhy, raiseFault_eq]
  · obtain ⟨i, hi⟩ := decode_of_not_listed h
    exact ⟨i, hi, engineStep_of_command hi⟩

end Sys2Proof.Machine
end

section
/-! PROOFS. The pseudo-instructions (30_encoding.md R88): what each statement they expand into does, then the
expansions, and the four steps of `exec m`. -/

namespace Sys2Proof.Machine

/-! ### The assembler's accesses (30_encoding.md R87) -/

theorem hostStmtStep_asmWr {p : PortReg} (hp : portReg (portOffset p) = p) (v : HostExpr) (s : State) :
    hostStmtStep (asmWr p v) s = hostNextStmt (writePort p (BitVec.ofNat 32 (evalHostExpr s v)) s) := by
  rw [asmWr, hostStmtStep, hp]

theorem hostStmtStep_asmRd {p : PortReg} (hp : portReg (portOffset p) = p) (h : Nat) (s : State) :
    hostStmtStep (asmRd p h) s = hostNextStmt (setHostVar h (readPort p s).1.toNat (readPort p s).2) := by
  rw [asmRd, hostStmtStep, hp]

/-- An assignment and the move to the next statement commute. -/
theorem hostNextStmt_setHostVar (h v : Nat) (s : State) :
    hostNextStmt (setHostVar h v s) = setHostVar h v (hostNextStmt s) := rfl

theorem portReg_r_word {k : Nat} (h : k < 4) : portReg (0x0030 + 4 * k) = .r k := by
  rw [portReg_r (by omega), Nat.add_sub_cancel_left, Nat.mul_div_cancel_left k (by omega)]

theorem issue_hostAt (v : Word32) (s : State) : (issue v s).hostAt = s.hostAt := by
  unfold issue raiseHazard
  (repeat' split) <;> rfl

/-! ### Words of a 128-bit register (20_memory.md R52) -/

theorem toNat_portWord (v : Word128) (k : Nat) : (portWord v k).toNat = v.toNat / 2 ^ (32 * k) % 2 ^ 32 := by
  rw [portWord, BitVec.extractLsb'_toNat, Nat.shiftRight_eq_div_pow]

/-- A register is its four port words, one above the other. -/
theorem toNat_eq_portWords (v : Word128) :
    v.toNat = (((portWord v 3).toNat * 2 ^ 32 + (portWord v 2).toNat) * 2 ^ 32 + (portWord v 1).toNat) * 2 ^ 32
      + (portWord v 0).toNat := by
  have hv := v.isLt
  simp only [toNat_portWord]
  omega

/-- Setting all four port words leaves nothing of the old register. -/
theorem setPortWord_all (w v : Word128) :
    setPortWord (setPortWord (setPortWord (setPortWord w 0 (portWord v 0)) 1 (portWord v 1)) 2 (portWord v 2)) 3
      (portWord v 3) = v := by
  apply BitVec.eq_of_toNat_eq
  rw [toNat_eq_portWords, toNat_eq_portWords v]
  simp [portWord_setPortWord]

/-- A slice of 32 bits at a port word's place is that word (00_scope.md R10). -/
theorem ofNat_slice {k hi lo : Nat} (hlo : lo = 32 * k) (hhi : hi = lo + 31) (hk : k < 4) (s : State) (v : HostExpr) :
    BitVec.ofNat 32 (evalHostExpr s (.slice v hi lo)) = portWord (BitVec.ofNat 128 (evalHostExpr s v)) k := by
  have hwidth : hi + 1 - lo = 32 := by omega
  apply BitVec.eq_of_toNat_eq
  rw [toNat_portWord, evalHostExpr, hwidth, hlo, BitVec.toNat_ofNat, BitVec.toNat_ofNat]
  generalize evalHostExpr s v = n
  have hcases : k = 0 ∨ k = 1 ∨ k = 2 ∨ k = 3 := by omega
  rcases hcases with rfl | rfl | rfl | rfl <;> omega

/-! ### `wr A`, `wr B`, `clc` and `sec` -/

/-- Writing a value's four slices to the port words of a register leaves the value in it, whatever it held. `put w n` is
the state `s` with `w` in the register and the host at `n`. -/
theorem foldl_wr_words {s : State} {reg : Nat → PortReg} {put : Word128 → Nat → State}
    (hwrite : ∀ k, k < 4 → ∀ w n e, hostStmtStep (asmWr (reg k) e) (put w n)
      = put (setPortWord w k (BitVec.ofNat 32 (evalHostExpr s e))) (n + 1)) (v : HostExpr) (w : Word128) (n : Nat) :
    [asmWr (reg 0) (.slice v 31 0), asmWr (reg 1) (.slice v 63 32), asmWr (reg 2) (.slice v 95 64),
        asmWr (reg 3) (.slice v 127 96)].foldl (fun s st => hostStmtStep st s) (put w n)
      = put (BitVec.ofNat 128 (evalHostExpr s v)) (n + 4) := by
  rw [List.foldl_cons, hwrite 0 (by decide), List.foldl_cons, hwrite 1 (by decide), List.foldl_cons,
    hwrite 2 (by decide), List.foldl_cons, hwrite 3 (by decide), List.foldl_nil,
    ofNat_slice (k := 0) rfl rfl (by decide), ofNat_slice (k := 1) rfl rfl (by decide),
    ofNat_slice (k := 2) rfl rfl (by decide), ofNat_slice (k := 3) rfl rfl (by decide), setPortWord_all]

theorem foldl_asmWrA {s : State} (hb : s.busy = false) (v : HostExpr) :
    (asmWrA v).foldl (fun s st => hostStmtStep st s) s
      = { s with a := BitVec.ofNat 128 (evalHostExpr s v), hostAt := s.hostAt + 4 } := by
  refine foldl_wr_words (put := fun w n => { s with a := w, hostAt := n }) (fun k hk w n e => ?_) v s.a s.hostAt
  rw [hostStmtStep_asmWr (p := .a k) (portReg_a_word hk), writePort_a_of_idle k _ (by exact hb),
    evalHostExpr_congr (t := s) (by rfl) e]
  rfl

theorem foldl_asmWrB {s : State} (hb : s.busy = false) (v : HostExpr) :
    (asmWrB v).foldl (fun s st => hostStmtStep st s) s
      = { s with b := BitVec.ofNat 128 (evalHostExpr s v), hostAt := s.hostAt + 4 } := by
  refine foldl_wr_words (put := fun w n => { s with b := w, hostAt := n }) (fun k hk w n e => ?_) v s.b s.hostAt
  rw [hostStmtStep_asmWr (p := .b k) (portReg_b_word hk), writePort_b_of_idle k _ (by exact hb),
    evalHostExpr_congr (t := s) (by rfl) e]
  rfl

/-- `wr FLAGS` of a bit. -/
theorem hostStmtStep_wrFlags {s : State} (hb : s.busy = false) (n : Nat) :
    hostStmtStep (asmWr .flags (.lit n)) s
      = { s with c := decide ((BitVec.ofNat 32 n).toNat % 2 = 1), hostAt := s.hostAt + 1 } := by
  rw [hostStmtStep_asmWr rfl, evalHostExpr, writePort_flags_of_idle _ hb]
  rfl

/-! ### `rd R` -/

theorem hostStmtStep_rdR {s : State} (hb : s.busy = false) {k : Nat} (hk : k < 4) (h : Nat) :
    hostStmtStep (asmRd (.r k) h) s = setHostVar h (portWord s.r k).toNat (hostNextStmt s) := by
  rw [hostStmtStep_asmRd (p := .r k) (portReg_r_word hk), readPort_r_of_idle k hb, hostNextStmt_setHostVar]

/-- The concatenation `rd R` assigns, once its four variables hold the port words (00_scope.md R12). -/
theorem evalHostExpr_cat_words {s : State} {h0 h1 h2 h3 : Nat} {v : Word128}
    (e0 : hostVar s h0 = (portWord v 0).toNat) (e1 : hostVar s h1 = (portWord v 1).toNat)
    (e2 : hostVar s h2 = (portWord v 2).toNat) (e3 : hostVar s h3 = (portWord v 3).toNat) :
    evalHostExpr s (.cat (.cat (.cat (.var h3) 32 (.var h2)) 32 (.var h1)) 32 (.var h0)) = v.toNat := by
  simp only [evalHostExpr, e0, e1, e2, e3, Nat.mod_eq_of_lt (BitVec.isLt _)]
  exact (toNat_eq_portWords v).symm

theorem foldl_asmRdR {s : State} (hb : s.busy = false) {h0 h1 h2 h3 : Nat} (hnd : [h0, h1, h2, h3].Nodup) (h : Nat) :
    (asmRdR h h0 h1 h2 h3).foldl (fun s st => hostStmtStep st s) s
      = setHostVar h s.r.toNat (setHostVar h3 (portWord s.r 3).toNat (setHostVar h2 (portWord s.r 2).toNat
          (setHostVar h1 (portWord s.r 1).toNat (setHostVar h0 (portWord s.r 0).toNat
            { s with hostAt := s.hostAt + 5 })))) := by
  simp only [List.nodup_cons, List.mem_cons, List.not_mem_nil, or_false, not_or] at hnd
  obtain ⟨⟨n01, n02, n03⟩, ⟨n12, n13⟩, n23, -⟩ := hnd
  conv =>
    lhs
    simp only [asmRdR, List.foldl_cons, List.foldl_nil, hostStmtStep_rdR, hb, hostNextStmt_busy, setHostVar_busy,
      hostNextStmt_r, setHostVar_r, Nat.reduceLT, hostNextStmt_setHostVar]
  rw [hostStmtStep,
    evalHostExpr_cat_words (v := s.r) (by simp [n01, n02, n03]) (by simp [n12, n13]) (by simp [n23]) (by simp)]
  simp only [hostNextStmt_setHostVar]
  simp only [hostNextStmt]

/-! ### Polling STATUS: `wait` and `chkfault` -/

/-- A one-bit slice of a word is 1 exactly if the bit is set (00_scope.md R10). -/
theorem slice_bit_eq_one (w : Word32) (k : Nat) : (w.toNat / 2 ^ k % 2 ^ (k + 1 - k) == 1) = w.getLsbD k := by
  rw [Nat.add_sub_cancel_left, Nat.pow_one, BitVec.getLsbD, Nat.testBit_eq_decide_div_mod_eq]
  rfl

/-- A read of STATUS, then a branch on one of its bits. -/
theorem foldl_poll (s : State) (x k target : Nat) :
    [asmRd .status x, HostStmt.ifGoto (.eq (.slice (.var x) k k) (.lit 1)) target].foldl
        (fun s st => hostStmtStep st s) s
      = { setHostVar x (statusWord s).toNat s with
          hostAt := if (statusWord s).getLsbD k then target else s.hostAt + 2 } := by
  rw [List.foldl_cons, hostStmtStep_asmRd rfl, readPort, List.foldl_cons, List.foldl_nil, hostStmtStep]
  simp only [evalHostCond, evalHostExpr, hostVar_hostNextStmt, hostVar_setHostVar, if_pos, slice_bit_eq_one]
  split <;> rfl

/-! ### `issue` and `exec` -/

theorem hostStmtStep_asmIssue (m : Instr) (s : State) :
    hostStmtStep (asmIssue m) s = { writePort .cmd (encode m) s with hostAt := s.hostAt + 1 } := by
  rw [asmIssue, hostStmtStep_asmWr rfl, evalHostExpr, ← encode, hostNextStmt, writePort, issue_hostAt]

/-- Every command answers a next state with BUSY clear (41_bitgen.md R131). -/
theorem exec_ends (i : Instr) (s : State) : ∃ t, exec i s = .next t ∧ t.busy = false := by
  have hnext : ∃ t, exec i s = .next t := by
    cases i <;> exact ⟨_, rfl⟩
  obtain ⟨t, h⟩ := hnext
  refine ⟨t, h, ?_⟩
  rcases exec_cases h with ⟨code, d, -, -, rfl⟩ | ⟨-, d, rfl⟩ | ⟨-, bytes, len, -, rfl⟩ | ⟨-, rfl⟩ |
    ⟨-, r, c, -, rfl⟩ | ⟨-, r, c, v, d, -, -, rfl⟩ | ⟨-, r, c, v, d, -, -, rfl⟩ |
    ⟨-, r, c, v, d, -, -, rfl, -⟩ | ⟨-, r, c, v, d, -, -, rfl, -⟩ <;> rfl

theorem dropTurn_of_no_turns {s : State} (h : s.turns = []) : dropTurn s = s := by
  rw [dropTurn, h, List.tail_nil, ← h]

/-- With no turns left, a command in flight runs (log 2). -/
theorem step_of_busy {s : State} {i : Instr} (hb : s.busy = true) (ht : s.turns = [])
    (hd : decode s.pending = .command i) : step s = exec i s := by
  have hagent : nextAgent s = some .engine := by simp [nextAgent, hb, ht]
  rw [step_of_engine hagent, dropTurn_of_no_turns ht, engineStep_of_command hd]

/-- With no turns left, the host of an idle block takes its statement's step. -/
theorem step_of_idle {s : State} {st : HostStmt} (hb : s.busy = false) (ht : s.turns = [])
    (hst : hostStmt s = some st) (hstep : st.hasStep = true) : step s = .next (hostStmtStep st s) := by
  have hagent : nextAgent s = some .host := by simp [nextAgent, hb, hostHasStep_of_stmt hst, hstep]
  rw [step_of_host hagent, dropTurn_of_no_turns ht, hostStep, hst]

/-- The statement `i` places on, in a program that holds `xs` at `here`. -/
theorem hostStmt_of_take_drop {s : State} {xs : List HostStmt} {here m i : Nat}
    (h : (s.hostProg.drop here).take m = xs) (hi : i < m) (hat : s.hostAt = here + i) : hostStmt s = xs[i]? := by
  rw [hostStmt, hat, ← h, List.getElem?_take_of_lt hi, List.getElem?_drop]

/-- `wait` on an idle block polls once and goes on. -/
theorem run_wait {s : State} {here x : Nat} (hb : s.busy = false) (ht : s.turns = []) (hat : s.hostAt = here)
    (hprog : (s.hostProg.drop here).take 2 = asmWait here x) :
    Host.Core.run core 2 s = .next { setHostVar x (statusWord s).toNat s with hostAt := here + 2 } := by
  have hread : hostStmt s = some (asmRd .status x) := hostStmt_of_take_drop hprog (i := 0) (by decide) hat
  have hbranch : hostStmt (hostStmtStep (asmRd .status x) s)
      = some (.ifGoto (.eq (.slice (.var x) 0 0) (.lit 1)) here) :=
    hostStmt_of_take_drop (s := hostStmtStep (asmRd .status x) s) hprog (i := 1) (by decide)
      (congrArg (· + 1) hat)
  have hpoll := foldl_poll s x 0 here
  rw [(statusWord_bits s).1, hb, hat] at hpoll
  rw [run_succ_of_next 1 (step_of_idle hb ht hread rfl),
    run_succ_of_next 0 (step_of_idle (s := hostStmtStep (asmRd .status x) s) hb ht hbranch rfl), run_zero]
  exact congrArg Host.Outcome.next hpoll

/-- `exec m` from an idle block without a fault: the write, the command, and `wait`. -/
theorem run_exec {s : State} {m : Instr} {here x : Nat} (hb : s.busy = false) (hf : s.fault = false)
    (ht : s.turns = []) (hat : s.hostAt = here) (hprog : (s.hostProg.drop here).take 3 = asmExec m here x) :
    ∃ u, exec m { s with pending := encode m, busy := true, hostAt := here + 1 } = .next u
      ∧ u.hostVars = s.hostVars
      ∧ Host.Core.run core 4 s = .next { setHostVar x (statusWord u).toNat u with hostAt := here + 3 } := by
  have hwrite : hostStmt s = some (asmIssue m) := hostStmt_of_take_drop hprog (i := 0) (by decide) hat
  have hissue : step s = .next { s with pending := encode m, busy := true, hostAt := here + 1 } := by
    rw [step_of_idle hb ht hwrite rfl, hostStmtStep_asmIssue, writePort, issue_of_idle _ hf hb, hat]
  obtain ⟨u, hu, hub⟩ := exec_ends m { s with pending := encode m, busy := true, hostAt := here + 1 }
  obtain ⟨-, -, -, huprog, huat, huvars, huturns⟩ := commandsKeepOperands m _ u hu
  have hcommand : step { s with pending := encode m, busy := true, hostAt := here + 1 } = .next u :=
    Eq.trans (step_of_busy rfl ht (decode_encode m)) hu
  have hwait : (u.hostProg.drop (here + 1)).take 2 = asmWait (here + 1) x := by
    rw [← huprog, ← List.drop_drop, List.take_drop]
    exact congrArg (List.drop 1) hprog
  refine ⟨u, hu, huvars.symm, ?_⟩
  rw [run_succ_of_next 3 hissue, run_succ_of_next 2 hcommand, run_wait hub (huturns.symm.trans ht) huat.symm hwait]

/-! ### The expansions put together -/

/-- A further assignment, too, changes the host's variables only. -/
theorem exists_setHostVar_eq {s t : State} {n : Nat} (h : ∃ vars, t = { s with hostVars := vars, hostAt := n })
    (x v : Nat) : ∃ vars, setHostVar x v t = { s with hostVars := vars, hostAt := n } := by
  obtain ⟨vars, rfl⟩ := h
  exact ⟨_, rfl⟩

/-- What an assignment and a move of the host leave: the other variables and the rest of the state. -/
theorem of_eq_setHostVar_at {s t : State} {x v place : Nat} (h : t = { setHostVar x v s with hostAt := place }) :
    hostVar t x = v ∧ (∀ y, y ≠ x → hostVar t y = hostVar s y)
      ∧ t = { s with hostVars := t.hostVars, hostAt := place } := by
  have hvar : ∀ y, hostVar t y = if y = x then v else hostVar s y := by
    rw [h]
    exact fun y => hostVar_setHostVar x v y s
  exact ⟨by rw [hvar, if_pos rfl], fun y hy => by rw [hvar, if_neg hy], by rw [h]; rfl⟩

/-- Settles O34, one expansion after the other. -/
theorem pseudoInstructionsExpand : Obligations.PseudoInstructionsExpand := by
  refine ⟨fun s v hb => ?_, fun s h h0 h1 h2 h3 hb hnd => ?_, fun s here x => ?_, fun s x faulted => ?_,
    fun s m => hostStmtStep_asmIssue m s, fun s m here x hb hf ht hat hprog => ?_⟩
  · exact ⟨foldl_asmWrA hb v, foldl_asmWrB hb v, hostStmtStep_wrFlags hb 0, hostStmtStep_wrFlags hb 1⟩
  · intro t
    have ht : t = _ := foldl_asmRdR hb hnd h
    refine ⟨?_, ?_, fun x hx => ?_⟩
    · simp [ht]
    · obtain ⟨vars, hvars⟩ : ∃ vars, t = { s with hostVars := vars, hostAt := s.hostAt + 5 } := by
        rw [ht]
        iterate 5 apply exists_setHostVar_eq
        exact ⟨s.hostVars, rfl⟩
      rw [hvars]
    · simp only [List.mem_cons, List.not_mem_nil, or_false, not_or] at hx
      obtain ⟨hxh, hx0, hx1, hx2, hx3⟩ := hx
      simp only [ht, hostVar_setHostVar, if_neg hxh, if_neg hx0, if_neg hx1, if_neg hx2, if_neg hx3]
      rfl
  · have hpoll := foldl_poll s x 0 here
    rw [(statusWord_bits s).1] at hpoll
    exact of_eq_setHostVar_at hpoll
  · have hpoll := foldl_poll s x 1 faulted
    rw [(statusWord_bits s).2.1] at hpoll
    exact of_eq_setHostVar_at hpoll
  · obtain ⟨u, hu, hvars, hrun⟩ := run_exec hb hf ht hat hprog
    obtain ⟨hx, hy, hrest⟩ := of_eq_setHostVar_at (s := u) rfl
    refine ⟨u, _, hu, hrun, hx, fun y hyx => ?_, hrest⟩
    rw [hy y hyx, hostVar, hostVar, hvars]

end Sys2Proof.Machine
end

section
/-! PROOFS. The 128-bit arithmetic unit (40_w128.md R100 to R110): its sums, products, shifts and rotates as numbers
and as bits, then what each command leaves. -/

namespace Sys2Proof.Machine

/-! ### A value in R (10_state.md R23) -/

theorem zext_self {W : Nat} (v : BitVec W) : zext W v = v := BitVec.setWidth_eq v

/-- Zero extension to the width of a register keeps the number. -/
theorem toNat_zext {W n : Nat} (h : W ≤ n) (v : BitVec W) : (zext n v).toNat = v.toNat :=
  BitVec.toNat_setWidth_of_le h

/-- Zero extension keeps the bits. -/
theorem getLsbD_zext {W n i : Nat} (h : i < n) (v : BitVec W) : (zext n v).getLsbD i = v.getLsbD i := by
  rw [zext, BitVec.getLsbD_setWidth, decide_eq_true h, Bool.true_and]

/-! ### The operands (30_encoding.md R84) -/

theorem toNat_opA64 (s : State) : (opA64 s).toNat = s.a.toNat % 2 ^ 64 := BitVec.extractLsb'_toNat 0 64 s.a

theorem toNat_opB64 (s : State) : (opB64 s).toNat = s.b.toNat % 2 ^ 64 := BitVec.extractLsb'_toNat 0 64 s.b

theorem opRotate128_eq (s : State) : opRotate128 s = s.b.toNat % 128 := BitVec.extractLsb'_toNat 0 7 s.b

theorem opRotate64_eq (s : State) : opRotate64 s = s.b.toNat % 64 := BitVec.extractLsb'_toNat 0 6 s.b

theorem opRotate32_eq (s : State) : opRotate32 s = s.b.toNat % 32 := BitVec.extractLsb'_toNat 0 5 s.b

theorem getLsbD_opA64 {i : Nat} (h : i < 64) (s : State) : (opA64 s).getLsbD i = s.a.getLsbD i := by
  simp [opA64, h]

theorem getLsbD_opA32 {i : Nat} (h : i < 32) (s : State) : (opA32 s).getLsbD i = s.a.getLsbD i := by
  simp [opA32, h]

/-! ### Sums (40_w128.md R101, R102) -/

/-- 129 bits hold the sum with its carry in: it is exact. -/
theorem toNat_wideSum (a b : Word128) (k : Bool) : (wideSum a b k).toNat = a.toNat + b.toNat + k.toNat := by
  have ha := a.isLt
  have hb := b.isLt
  have hk := k.toNat_le
  simp only [wideSum, BitVec.toNat_add, BitVec.toNat_setWidth, BitVec.toNat_ofBool]
  omega

theorem toNat_sumLow (x : BitVec 129) : (sumLow x).toNat = x.toNat % 2 ^ 128 := BitVec.extractLsb'_toNat 0 128 x

theorem sumCarry_iff (x : BitVec 129) : sumCarry x = true ↔ 2 ^ 128 ≤ x.toNat := by
  have hx := x.isLt
  rw [sumCarry, BitVec.getLsbD, Nat.testBit_eq_decide_div_mod_eq, decide_eq_true_iff]
  omega

/-- The sum that `w128.add` and `w128.adc` leave in R. -/
theorem toNat_zext_sumLow_wideSum (a b : Word128) (k : Bool) :
    (zext 128 (sumLow (wideSum a b k))).toNat = (a.toNat + b.toNat + k.toNat) % 2 ^ 128 := by
  rw [zext_self, toNat_sumLow, toNat_wideSum]

/-- The carry that `w128.add` and `w128.adc` leave in C. -/
theorem sumCarry_wideSum_iff (a b : Word128) (k : Bool) :
    sumCarry (wideSum a b k) = true ↔ 2 ^ 128 ≤ a.toNat + b.toNat + k.toNat := by
  rw [sumCarry_iff, toNat_wideSum]

/-- Settles O8: the carry in is 0. -/
theorem w128AddResult : Obligations.W128AddResult :=
  ⟨decode_encode .w128Add, fun s =>
    ⟨_, rfl, toNat_zext_sumLow_wideSum s.a s.b false, sumCarry_wideSum_iff s.a s.b false, rfl⟩⟩

/-- Settles O9: the carry in is C. -/
theorem w128AdcResult : Obligations.W128AdcResult :=
  ⟨decode_encode .w128Adc, fun s =>
    ⟨_, rfl, toNat_zext_sumLow_wideSum s.a s.b s.c, sumCarry_wideSum_iff s.a s.b s.c, rfl⟩⟩

/-! ### Products (40_w128.md R103, R104) -/

/-- A width that holds both operands' widths together holds their product: it is exact. -/
theorem toNat_zext_mul_zext {W n : Nat} (h : W + W ≤ n) (x y : BitVec W) :
    (zext n x * zext n y).toNat = x.toNat * y.toNat := by
  have hlt : x.toNat * y.toNat < 2 ^ n := calc
    x.toNat * y.toNat < 2 ^ W * 2 ^ W := Nat.mul_lt_mul'' x.isLt y.isLt
    _ = 2 ^ (W + W) := (Nat.pow_add 2 W W).symm
    _ ≤ 2 ^ n := Nat.pow_le_pow_right (by decide) h
  have hle : W ≤ n := Nat.le_trans (Nat.le_add_right W W) h
  rw [BitVec.toNat_mul, toNat_zext hle, toNat_zext hle, Nat.mod_eq_of_lt hlt]

/-- Settles O10: the product of two 64-bit halves fits in R. -/
theorem w128MulwResult : Obligations.W128MulwResult := by
  refine ⟨decode_encode .w128Mulw, fun s => ⟨_, rfl, ?_, rfl⟩⟩
  rw [complete_r, setR_r, zext_self, toNat_zext_mul_zext (by decide), toNat_opA64, toNat_opB64]

/-- Settles O11: multiplication of words is modulo 2^128. -/
theorem w128MulResult : Obligations.W128MulResult := by
  refine ⟨decode_encode .w128Mul, fun s => ⟨_, rfl, ?_, rfl⟩⟩
  rw [complete_r, setR_r, zext_self, BitVec.toNat_mul]

/-- Settles O14: the product and then the sum are those of the LCG step, each modulo 2^128 (43_pcg.md R301). -/
theorem w128ComputesPcg64Step : Obligations.W128ComputesPcg64Step := by
  intro s t u c hmul hadd
  obtain ⟨t', hmul', hprod, -⟩ := w128MulResult.2 { s with a := c.state, b := mul128 }
  obtain ⟨u', hadd', hsum, -⟩ := w128AddResult.2 { t with a := t.r, b := c.inc }
  obtain rfl : t = t' := Host.Outcome.next.inj (hmul.symm.trans hmul')
  obtain rfl : u = u' := Host.Outcome.next.inj (hadd.symm.trans hadd')
  apply BitVec.eq_of_toNat_eq
  rw [hsum, hprod, genPcg64, pcgStep, BitVec.toNat_add, BitVec.toNat_mul]

/-! ### Shifts (40_w128.md R105, R106) -/

/-- Settles O12: both commands split at 128, the shift below it and 0 from it on. -/
theorem w128ShiftResults : Obligations.W128ShiftResults := by
  refine ⟨decode_encode .w128Shl, decode_encode .w128Shr, fun s => ⟨_, rfl, fun h => ?_, fun h => ?_, rfl⟩,
    fun s => ⟨_, rfl, fun h => ?_, fun h => ?_, rfl⟩⟩ <;>
    rw [complete_r, setR_r, zext_self, opShiftAmount]
  · rw [if_pos h, BitVec.toNat_shiftLeft, Nat.shiftLeft_eq]
  · rw [if_neg (Nat.not_lt.2 h)]
  · rw [if_pos h, BitVec.toNat_ushiftRight, Nat.shiftRight_eq_div_pow]
  · rw [if_neg (Nat.not_lt.2 h)]

/-! ### Rotates (40_w128.md R107 to R109) -/

/-- The spec's rotate is the library's: a rotate by a multiple of the width is none (00_scope.md R11). -/
theorem rotr_eq_rotateRight {W : Nat} (v : BitVec W) (r : Nat) : rotr v r = v.rotateRight r := by
  rw [rotr, BitVec.rotateRight_def]
  split
  next h => rw [h, BitVec.ushiftRight_zero, Nat.sub_zero, BitVec.shiftLeft_eq_zero (Nat.le_refl W), BitVec.or_zero]
  next => rfl

/-- Bit `i` of a rotate to the right by `r` is bit `i + r` modulo the width (00_scope.md R11). -/
theorem getLsbD_rotr {W i : Nat} (h : i < W) (v : BitVec W) (r : Nat) :
    (rotr v r).getLsbD i = v.getLsbD ((i + r) % W) := by
  have hr : r % W < W := Nat.mod_lt r (Nat.zero_lt_of_lt h)
  rw [rotr_eq_rotateRight, BitVec.getLsbD_rotateRight, Bool.cond_decide, ← Nat.add_mod_mod i r W]
  split
  next hlow => rw [Nat.mod_eq_of_lt (show i + r % W < W by omega), Nat.add_comm]
  next hwrap =>
    have hindex : i + r % W - W = i - (W - r % W) := by omega
    rw [decide_eq_true h, Bool.true_and, Nat.mod_eq_sub_mod (show W ≤ i + r % W by omega), hindex,
      Nat.mod_eq_of_lt (show i - (W - r % W) < W by omega)]

/-- The bits of R after a rotate of a `W`-bit value. -/
theorem getLsbD_zext_rotr {W i : Nat} (hW : W ≤ 128) (h : i < W) (v : BitVec W) (r : Nat) :
    (zext 128 (rotr v r)).getLsbD i = v.getLsbD ((i + r) % W) := by
  rw [getLsbD_zext (Nat.lt_of_lt_of_le h hW), getLsbD_rotr h]

/-- A value narrower than R leaves R's bits above it 0 (10_state.md R23). -/
theorem toNat_zext_lt {W n : Nat} (h : W ≤ n) (v : BitVec W) : (zext n v).toNat < 2 ^ W := by
  rw [toNat_zext h]
  exact v.isLt

/-- Settles O13, bit by bit: the rotates differ in their width, the part of A and the field of B. -/
theorem w128RotateResults : Obligations.W128RotateResults := by
  refine ⟨decode_encode .w128Rotr, decode_encode .w128Rotr64, decode_encode .w128Rotr32,
    fun s => ⟨_, rfl, fun i hi => ?_, rfl⟩,
    fun s => ⟨_, rfl, fun i hi => ?_, toNat_zext_lt (by decide) _, rfl⟩,
    fun s => ⟨_, rfl, fun i hi => ?_, toNat_zext_lt (by decide) _, rfl⟩⟩ <;>
    rw [complete_r, setR_r, getLsbD_zext_rotr (by decide) hi]
  · rw [opRotate128_eq]
  · rw [getLsbD_opA64 (Nat.mod_lt _ (by decide)), opRotate64_eq]
  · rw [getLsbD_opA32 (Nat.mod_lt _ (by decide)), opRotate32_eq]

end Sys2Proof.Machine
end

section
/-! PROOFS. Rules over all commands and the agents' steps (41_bitgen.md R130 to R134, 60_exceptions.md R401, R409): how
a command ends, what it leaves of a fault, which agent moves, and the CMD write. -/

namespace Sys2Proof.Machine

/-! ### How a command ends (41_bitgen.md R131) -/

/-- RJ is the mark of a LOAD that rejects: every other way to end clears it (41_bitgen.md R131). -/
theorem exec_rj_of_not_load {i : Instr} {s t : State} (h : exec i s = .next t) (hl : isLoad i = false) :
    t.rj = false := by
  rcases exec_cases h with ⟨code, d, -, -, rfl⟩ | ⟨hload, -⟩ | ⟨-, bytes, len, -, rfl⟩ | ⟨-, rfl⟩ |
    ⟨-, r, c, -, rfl⟩ | ⟨-, r, c, v, d, -, -, rfl⟩ | ⟨-, r, c, v, d, -, -, rfl⟩ |
    ⟨-, r, c, v, d, -, -, rfl, -⟩ | ⟨-, r, c, v, d, -, -, rfl, -⟩
  case inr.inl => exact absurd hload (by simp [hl])
  all_goals rfl

/-- Settles O16: every command answers a next state with BUSY clear, and one that is no LOAD clears RJ. -/
theorem everyCommandEnds : Obligations.EveryCommandEnds := by
  intro i s
  obtain ⟨t, h, hbusy⟩ := exec_ends i s
  refine ⟨t, h, hbusy, fun hrj => ?_⟩
  cases hl : isLoad i
  · exact absurd (exec_rj_of_not_load h hl) (by simp [hrj])
  · rfl

/-- Settles O15: a completion writes RJ and BUSY only. -/
theorem nopOnlyCompletes : Obligations.NopOnlyCompletes :=
  ⟨decode_encode .nop, fun _ => rfl⟩

/-! ### What a command leaves of a fault (60_exceptions.md R401) -/

/-- A command raises a fault, or leaves FAULT and CODE as they were. -/
theorem exec_fault_cases {i : Instr} {s t : State} (h : exec i s = .next t) :
    (∃ code d, t = raiseFault code { s with draws := d }) ∨ (t.fault = s.fault ∧ t.code = s.code) := by
  rcases exec_cases h with ⟨code, d, -, -, rfl⟩ | ⟨-, d, rfl⟩ | ⟨-, bytes, len, -, rfl⟩ | ⟨-, rfl⟩ |
    ⟨-, r, c, -, rfl⟩ | ⟨-, r, c, v, d, -, -, rfl⟩ | ⟨-, r, c, v, d, -, -, rfl⟩ |
    ⟨-, r, c, v, d, -, -, rfl, -⟩ | ⟨-, r, c, v, d, -, -, rfl, -⟩
  case inl => exact .inl ⟨code, d, rfl⟩
  all_goals exact .inr ⟨rfl, rfl⟩

/-- Settles O24: raising a fault keeps the first code, and a command that raises none leaves FAULT and CODE. -/
theorem faultingCommandWritesNothingElse : Obligations.FaultingCommandWritesNothingElse := by
  intro i s t h
  rcases exec_fault_cases h with ⟨code, d, rfl⟩ | ⟨hfault, hcode⟩
  · exact ⟨fun hc => if_neg hc, fun _ => rfl, fun _ _ => rfl⟩
  · refine ⟨fun _ => hcode, fun hf => hfault.trans hf, fun hf ht => ?_⟩
    rw [hfault, hf] at ht
    exact absurd ht Bool.false_ne_true

/-! ### The agents (60_exceptions.md R409, R419) -/

theorem nextAgent_of_busy {s : State} (h : s.busy = true) :
    nextAgent s = if hostHasStep s ∧ s.turns.head? = some .host then some .host else some .engine :=
  if_pos h

theorem nextAgent_of_idle {s : State} (h : s.busy = false) :
    nextAgent s = if hostHasStep s then some .host else none := by
  rw [nextAgent, h]
  exact if_neg Bool.false_ne_true

/-- The engine's step runs the command of PENDING (41_bitgen.md R131). -/
theorem step_of_engine_command {s : State} {i : Instr} (hn : nextAgent s = some .engine)
    (hd : decode s.pending = .command i) : step s = exec i (dropTurn s) :=
  (step_of_engine hn).trans (engineStep_of_command (s := dropTurn s) hd)

/-- A command in flight with the engine's turn in front: the engine moves next. -/
theorem nextAgent_issuedNext (v : Word32) (s : State) : nextAgent (issuedNext v s) = some .engine := by
  rw [nextAgent_of_busy rfl]
  exact if_neg (by simp [issuedNext])

/-- Settles O4: the engine's step is `exec`, and in `withFetchWord`'s state the engine moves next. -/
theorem stepRunsDecodedCommand : Obligations.StepRunsDecodedCommand :=
  ⟨fun _ _ hn hd => step_of_engine_command hn hd,
    fun s nbits w _ hd => step_of_engine_command (nextAgent_issuedNext (tableWord nbits w) s) hd⟩

/-- Settles O5: the choice of the agent by BUSY, whether the host has a step, and the turn; then the host's step. -/
theorem agentsTakeTheirSteps : Obligations.AgentsTakeTheirSteps := by
  refine ⟨fun s => busy_of_engine, fun s hb hh => ?_, fun s hb hh => ?_, fun s st hb hst hstep => ?_, fun s hb hst => ?_⟩
  · rw [nextAgent_of_busy hb, if_neg (by simp [hh])]
  · simp [nextAgent_of_busy hb, hh]
  · have hn : nextAgent s = some .host := by
      rw [nextAgent_of_idle hb, hostHasStep_of_stmt hst, if_pos hstep]
    have hst' : hostStmt (dropTurn s) = some st := hst
    rw [step_of_host hn, hostStep, hst', dropTurn]
  · have hh : hostHasStep s = false := by rw [hostHasStep, hst]
    have hn : nextAgent s = none := by rw [nextAgent_of_idle hb, hh, if_neg Bool.false_ne_true]
    rw [step_of_none hn, noStep, hst]

/-! ### The CMD write (41_bitgen.md R130) -/

/-- Settles O27: the three ways of an issue. -/
theorem commandWriteIssues : Obligations.CommandWriteIssues :=
  ⟨rfl, fun _ v => ⟨issue_of_fault v, issue_of_idle v, issue_of_busy v⟩⟩

end Sys2Proof.Machine
end

section
/-! PROOFS. SEEDE and the draws (41_bitgen.md R135 to R139, R142): what each answers, from its frame, the draws' values as
numbers made of words of the output stream. -/

namespace Sys2Proof.Machine

/-! ### SEEDE (41_bitgen.md R142) -/

/-- Both answers of the entropy input, each with the count of free values gone on by one (log 28). -/
theorem seedeCommand_eq {γ : Type} (u : GenUnit γ) (answer : Nat → γ) (s : State) :
    seedeCommand u answer s = if Config.entropyFails s.draws
      then raiseFault .entropy { s with draws := s.draws + 1 }
      else complete (construct u (answer s.draws) { s with draws := s.draws + 1 }) := rfl

/-- Settles O45: the two answers of each SEEDE; a PCG answer is the context with its increment made odd. -/
theorem seedeResults : Obligations.SeedeResults := by
  refine fun s => ⟨⟨_, rfl, seedeCommand_eq mt32Unit _ s⟩, ⟨_, rfl, seedeCommand_eq mt64Unit _ s⟩,
    ⟨_, rfl, ?_⟩, ⟨_, rfl, ?_⟩⟩ <;> rw [seedeCommand_eq] <;> split
  · rfl
  · exact ⟨oddInc_odd (by decide) _, rfl, rfl⟩
  · rfl
  · exact ⟨oddInc_odd (by decide) _, rfl, rfl⟩

/-! ### Draws (41_bitgen.md R136 to R139) -/

section

variable {γ : Type} (gen32 : γ → Word32 × γ) (gen64 : γ → Word64 × γ) (c : γ)

theorem next32Native_eq : next32Native gen32 c = (outputStream gen32 c 0, ctxAfter gen32 1 c) := rfl

theorem next32Narrow_eq : next32Narrow gen64 c = (narrow (outputStream gen64 c 0), ctxAfter gen64 1 c) := rfl

theorem next64Native_eq : next64Native gen64 c = (outputStream gen64 c 0, ctxAfter gen64 1 c) := rfl

theorem drawBit_eq {W : Nat} (gen : γ → BitVec W × γ) (c : γ) :
    drawBit gen c = ((outputStream gen c 0).extractLsb' 0 1, ctxAfter gen 1 c) := rfl

end

theorem toNat_append_mul {n m : Nat} (x : BitVec n) (y : BitVec m) :
    (x ++ y).toNat = x.toNat * 2 ^ m + y.toNat := by
  rw [toNat_append_eq, Nat.mul_comm]

theorem toNat_lowBit {W : Nat} (x : BitVec W) : (x.extractLsb' 0 1).toNat = x.toNat % 2 :=
  BitVec.extractLsb'_toNat 0 1 x

/-- Four words, the first highest (41_bitgen.md R138). -/
theorem toNat_append_four (x y z w : Word32) :
    ((x ++ y) ++ (z ++ w)).toNat = x.toNat * 2 ^ 96 + y.toNat * 2 ^ 64 + z.toNat * 2 ^ 32 + w.toNat := by
  simp only [toNat_append_eq]
  omega

/-- The half of a word that NARROW_SEL names, as a number (41_bitgen.md R136). -/
theorem toNat_narrow (v : Word64) :
    (narrow v).toNat = match Config.narrowSel with | .high => v.toNat / 2 ^ 32 | .low => v.toNat % 2 ^ 32 := by
  rw [narrow]
  cases Config.narrowSel with
  | high =>
    have hlt : v.toNat / 2 ^ 32 < 2 ^ 32 := by
      have hv := v.isLt
      omega
    exact (BitVec.extractLsb'_toNat 32 32 v).trans (by rw [Nat.shiftRight_eq_div_pow, Nat.mod_eq_of_lt hlt])
  | low => exact BitVec.extractLsb'_toNat 0 32 v

/-- A draw on a context that holds a value: R is the word drawn, zero-extended, the context is the one after the draw,
and but for RJ and BUSY nothing else is written (41_bitgen.md R135, R136). -/
theorem drawCommand_answers {γ : Type} (u : GenUnit γ) {n : Nat} (hn : n ≤ 128) {s : State} (h : u.valid s = true)
    {draw : γ → BitVec n × γ} {word : BitVec n} {c : γ} (hdraw : draw (u.ctx s) = (word, c)) {v : Nat}
    (hv : word.toNat = v) :
    ∃ t, (.next (drawCommand u draw s) : Host.Outcome State Fault Refusal) = .next t
      ∧ t.r.toNat = v ∧ t = complete { u.setCtx c s with r := t.r } := by
  rw [drawCommand_of_valid u draw h, hdraw]
  exact ⟨_, rfl, (toNat_zext hn word).trans hv, rfl⟩

/-! Each unit's frame as a record update. The context after the draw is a variable, so that no proof computes a draw. -/

section

variable {n v : Nat} {s : State} {word : BitVec n}

theorem mt32_draw_answers (hn : n ≤ 128) (h : s.validMt32 = true) {draw : Mt32 → BitVec n × Mt32} {c : Mt32}
    (hdraw : draw s.mt32 = (word, c)) (hv : word.toNat = v) :
    ∃ t, (.next (drawCommand mt32Unit draw s) : Host.Outcome State Fault Refusal) = .next t
      ∧ t.r.toNat = v ∧ t = { s with r := t.r, mt32 := c, rj := false, busy := false } :=
  drawCommand_answers mt32Unit hn h hdraw hv

theorem mt64_draw_answers (hn : n ≤ 128) (h : s.validMt64 = true) {draw : Mt64 → BitVec n × Mt64} {c : Mt64}
    (hdraw : draw s.mt64 = (word, c)) (hv : word.toNat = v) :
    ∃ t, (.next (drawCommand mt64Unit draw s) : Host.Outcome State Fault Refusal) = .next t
      ∧ t.r.toNat = v ∧ t = { s with r := t.r, mt64 := c, rj := false, busy := false } :=
  drawCommand_answers mt64Unit hn h hdraw hv

theorem pcg32_draw_answers (hn : n ≤ 128) (h : s.validPcg32 = true) {draw : Pcg32 → BitVec n × Pcg32} {c : Pcg32}
    (hdraw : draw s.pcg32 = (word, c)) (hv : word.toNat = v) :
    ∃ t, (.next (drawCommand pcg32Unit draw s) : Host.Outcome State Fault Refusal) = .next t
      ∧ t.r.toNat = v ∧ t = { s with r := t.r, pcg32 := c, rj := false, busy := false } :=
  drawCommand_answers pcg32Unit hn h hdraw hv

theorem pcg64_draw_answers (hn : n ≤ 128) (h : s.validPcg64 = true) {draw : Pcg64 → BitVec n × Pcg64} {c : Pcg64}
    (hdraw : draw s.pcg64 = (word, c)) (hv : word.toNat = v) :
    ∃ t, (.next (drawCommand pcg64Unit draw s) : Host.Outcome State Fault Refusal) = .next t
      ∧ t.r.toNat = v ∧ t = { s with r := t.r, pcg64 := c, rj := false, busy := false } :=
  drawCommand_answers pcg64Unit hn h hdraw hv

end

/-- Settles O54: each draw's words of the output stream, and their value as a number. -/
theorem drawsOfNarrowGenerators : Obligations.DrawsOfNarrowGenerators :=
  ⟨fun s h =>
    ⟨mt32_draw_answers (by decide) h (next32Native_eq genMt32 s.mt32) rfl,
      mt32_draw_answers (by decide) h (next64Pair_eq genMt32 s.mt32) (toNat_append_mul _ _),
      mt32_draw_answers (by decide) h (next128_pair_eq genMt32 s.mt32) (toNat_append_four _ _ _ _),
      mt32_draw_answers (by decide) h (drawBit_eq genMt32 s.mt32) (toNat_lowBit _)⟩,
    fun s h =>
    ⟨pcg32_draw_answers (by decide) h (next32Native_eq genPcg32 s.pcg32) rfl,
      pcg32_draw_answers (by decide) h (next64Pair_eq genPcg32 s.pcg32) (toNat_append_mul _ _),
      pcg32_draw_answers (by decide) h (next128_pair_eq genPcg32 s.pcg32) (toNat_append_four _ _ _ _),
      pcg32_draw_answers (by decide) h (drawBit_eq genPcg32 s.pcg32) (toNat_lowBit _)⟩⟩

/-- Settles O55: each draw's words of the output stream, and their value as a number. -/
theorem drawsOfWideGenerators : Obligations.DrawsOfWideGenerators :=
  ⟨fun s h =>
    ⟨mt64_draw_answers (by decide) h (next32Narrow_eq genMt64 s.mt64) (toNat_narrow _),
      mt64_draw_answers (by decide) h (next64Native_eq genMt64 s.mt64) rfl,
      mt64_draw_answers (by decide) h (next128_native_eq genMt64 s.mt64) (toNat_append_mul _ _),
      mt64_draw_answers (by decide) h (drawBit_eq genMt64 s.mt64) (toNat_lowBit _)⟩,
    fun s h =>
    ⟨pcg64_draw_answers (by decide) h (next32Narrow_eq genPcg64 s.pcg64) (toNat_narrow _),
      pcg64_draw_answers (by decide) h (next64Native_eq genPcg64 s.pcg64) rfl,
      pcg64_draw_answers (by decide) h (next128_native_eq genPcg64 s.pcg64) (toNat_append_mul _ _),
      pcg64_draw_answers (by decide) h (drawBit_eq genPcg64 s.pcg64) (toNat_lowBit _)⟩⟩

/-- A draw of two words is two draws of one word (41_bitgen.md R137), for a unit whose context and VALID bit stand
apart from R, RJ, BUSY and each other. -/
theorem next64Pair_of_two_draws {γ : Type} (u : GenUnit γ) {gen : γ → Word32 × γ} {s t t1 t2 : State}
    (hvalid : ∀ (x : Word32) c, u.valid (complete (setR x (u.setCtx c s))) = u.valid s)
    (hctx : ∀ (x : Word32) c, u.ctx (complete (setR x (u.setCtx c s))) = c)
    (hset : ∀ (x : Word32) c c', u.setCtx c' (complete (setR x (u.setCtx c s))) = complete (setR x (u.setCtx c' s)))
    (hv : u.valid s = true) (h : drawCommand u (next64Pair gen) s = t)
    (h1 : drawCommand u (next32Native gen) s = t1) (h2 : drawCommand u (next32Native gen) t1 = t2) :
    t.r.toNat = t1.r.toNat * 2 ^ 32 + t2.r.toNat ∧ t = { t2 with r := t.r } := by
  rw [drawCommand_of_valid u _ hv] at h h1
  subst h1
  rw [drawCommand_of_valid u _ ((hvalid _ _).trans hv), hctx, hset] at h2
  subst h h2
  refine ⟨?_, rfl⟩
  simp only [complete_r, setR_r, toNat_zext (show 64 ≤ 128 by decide), toNat_zext (show 32 ≤ 128 by decide)]
  exact toNat_append_mul _ _

/-- Settles O56: both generators' draws of two words are two draws. -/
theorem next64IsTwoNext32 : Obligations.Next64IsTwoNext32 :=
  ⟨fun _ _ _ _ hv h h1 h2 =>
    next64Pair_of_two_draws mt32Unit (fun _ _ => rfl) (fun _ _ => rfl) (fun _ _ _ => rfl) hv
      (Host.Outcome.next.inj h) (Host.Outcome.next.inj h1) (Host.Outcome.next.inj h2),
    fun _ _ _ _ hv h h1 h2 =>
    next64Pair_of_two_draws pcg32Unit (fun _ _ => rfl) (fun _ _ => rfl) (fun _ _ _ => rfl) hv
      (Host.Outcome.next.inj h) (Host.Outcome.next.inj h1) (Host.Outcome.next.inj h2)⟩

end Sys2Proof.Machine
end

section
/-! PROOFS. SAVE and LOAD (41_bitgen.md R140, R141, R143): the bytes of the blobs, what each frame answers, and a SAVE
undone by a LOAD. -/

namespace Sys2Proof.Machine

/-! ### The bytes of a blob (42_mt.md R211, R212; 43_pcg.md R309, R310) -/

/-- Byte `k` of word `i` of a list of words. -/
theorem flatMap_leBytes_getElem {W size : Nat} (xs : List (BitVec W)) {i k : Nat} (hi : i < xs.length) (hk : k < size) :
    (xs.flatMap fun x => leBytes size x.toNat)[size * i + k]? = some (BitVec.ofNat 8 (xs[i].toNat / 256 ^ k)) := by
  induction xs generalizing i with
  | nil => exact absurd hi (Nat.not_lt_zero i)
  | cons x xs ih =>
    rw [List.flatMap_cons]
    cases i with
    | zero =>
      rw [Nat.mul_zero, Nat.zero_add, List.getElem?_append_left (by rwa [length_leBytes]), leBytes_getElem _ _ _ hk,
        List.getElem_cons_zero]
    | succ i =>
      have hindex : size * (i + 1) + k - size = size * i + k := by
        rw [Nat.mul_succ]
        omega
      rw [List.getElem?_append_right (by rw [length_leBytes, Nat.mul_succ]; omega), length_leBytes, hindex,
        ih (Nat.lt_of_succ_lt_succ hi), List.getElem_cons_succ]

section

variable {W N size : Nat} (c : MtCtx W N)

theorem mtBlob_cursor {k : Nat} (hk : k < 2) :
    (mtBlob size c)[k]? = some (BitVec.ofNat 8 (c.w.val / 256 ^ k)) := by
  rw [mtBlob, List.getElem?_append_left (by rwa [length_leBytes]), leBytes_getElem _ _ _ hk]

theorem mtBlob_word {i k : Nat} (hi : i < N) (hk : k < size) :
    (mtBlob size c)[2 + size * i + k]? = some (BitVec.ofNat 8 ((mtWord c.mt i).toNat / 256 ^ k)) := by
  have hword : mtWord c.mt i = c.mt.toList[i]'(by simpa using hi) := by simp [mtWord, hi]
  rw [mtBlob, List.getElem?_append_right (by rw [length_leBytes]; omega), length_leBytes, Nat.add_assoc,
    Nat.add_sub_cancel_left, flatMap_leBytes_getElem _ (by simpa using hi) hk, hword]

end

section

variable {W size : Nat} (c : PcgCtx W)

theorem pcgBlob_state {k : Nat} (hk : k < size) :
    (pcgBlob size c)[k]? = some (BitVec.ofNat 8 (c.state.toNat / 256 ^ k)) := by
  rw [pcgBlob, List.getElem?_append_left (by rwa [length_leBytes]), leBytes_getElem _ _ _ hk]

theorem pcgBlob_inc {k : Nat} (hk : k < size) :
    (pcgBlob size c)[size + k]? = some (BitVec.ofNat 8 (c.inc.toNat / 256 ^ k)) := by
  rw [pcgBlob, List.getElem?_append_right (by rw [length_leBytes]; omega), length_leBytes, Nat.add_sub_cancel_left,
    leBytes_getElem _ _ _ hk]

end

/-! ### SAVE (41_bitgen.md R140) -/

/-- A SAVE of a context that holds a value: the blob's bytes from offset 0 on, every byte beyond as before, LEN, and but
for RJ and BUSY nothing else is written. -/
theorem saveCommand_answers {γ : Type} (u : GenUnit γ) {s : State} (h : u.valid s = true) {enc : γ → List Byte}
    {len : Nat} (hlen : (enc (u.ctx s)).length = len) :
    ∃ t, (.next (saveCommand u len enc s) : Host.Outcome State Fault Refusal) = .next t
      ∧ (∀ {k b}, (enc (u.ctx s))[k]? = some b → Memory.byte? t.buf k = some b)
      ∧ (∀ x, len ≤ x → Memory.byte? t.buf x = Memory.byte? s.buf x)
      ∧ t = { s with buf := t.buf, len := BitVec.ofNat 16 len, rj := false, busy := false } := by
  subst hlen
  refine ⟨_, congrArg Host.Outcome.next (saveCommand_of_valid u _ enc h), fun {k b} hb => ?_, fun x hx => ?_, rfl⟩
  · obtain ⟨hk, -⟩ := List.getElem?_eq_some_iff.1 hb
    exact (byte?_write s.buf 0 _ k).trans ((if_pos ⟨Nat.zero_le k, by rwa [Nat.zero_add]⟩).trans hb)
  · exact byte?_write_of_outside s.buf 0 _ x (.inr (by rwa [Nat.zero_add]))

/-- Settles O57: the frame, and the bytes of each blob. -/
theorem saveResults : Obligations.SaveResults := by
  refine ⟨fun s h => ?_, fun s h => ?_, fun s h => ?_, fun s h => ?_⟩
  · obtain ⟨t, ht, hbyte, hbeyond, hframe⟩ := saveCommand_answers mt32Unit h (length_encMt32 s.mt32)
    exact ⟨t, ht, fun k hk => hbyte (mtBlob_cursor s.mt32 hk), fun i k hi hk => hbyte (mtBlob_word s.mt32 hi hk),
      hbeyond, hframe⟩
  · obtain ⟨t, ht, hbyte, hbeyond, hframe⟩ := saveCommand_answers mt64Unit h (length_encMt64 s.mt64)
    exact ⟨t, ht, fun k hk => hbyte (mtBlob_cursor s.mt64 hk), fun i k hi hk => hbyte (mtBlob_word s.mt64 hi hk),
      hbeyond, hframe⟩
  · obtain ⟨t, ht, hbyte, hbeyond, hframe⟩ := saveCommand_answers pcg32Unit h (length_encPcg32 s.pcg32)
    exact ⟨t, ht, fun k hk => ⟨hbyte (pcgBlob_state s.pcg32 hk), hbyte (pcgBlob_inc s.pcg32 hk)⟩, hbeyond, hframe⟩
  · obtain ⟨t, ht, hbyte, hbeyond, hframe⟩ := saveCommand_answers pcg64Unit h (length_encPcg64 s.pcg64)
    exact ⟨t, ht, fun k hk => ⟨hbyte (pcgBlob_state s.pcg64 hk), hbyte (pcgBlob_inc s.pcg64 hk)⟩, hbeyond, hframe⟩

/-! ### The context a blob holds (42_mt.md R211, R212; 43_pcg.md R309 to R311) -/

/-- A value read from bytes that fit its width is exact. -/
theorem toNat_ofNat_leValue_take {W size : Nat} (hW : 256 ^ size = 2 ^ W) (bs : List Byte) :
    (BitVec.ofNat W (leValue (bs.take size))).toNat = leValue (bs.take size) := by
  have hlt : leValue (bs.take size) < 2 ^ W := calc
    leValue (bs.take size) < 256 ^ (bs.take size).length := leValue_lt _
    _ ≤ 256 ^ size := Nat.pow_le_pow_right (by decide) (List.length_take_le size bs)
    _ = 2 ^ W := hW
  rw [BitVec.toNat_ofNat, Nat.mod_eq_of_lt hlt]

theorem leWords_getElem (W size : Nat) {n i : Nat} (hi : i < n) (bs : List Byte) :
    (leWords W size n bs)[i]? = some (BitVec.ofNat W (leValue ((bs.drop (size * i)).take size))) := by
  induction n generalizing i bs with
  | zero => exact absurd hi (Nat.not_lt_zero i)
  | succ n ih =>
    rw [leWords]
    cases i with
    | zero => simp
    | succ i =>
      rw [List.getElem?_cons_succ, ih (Nat.lt_of_succ_lt_succ hi), List.drop_drop, Nat.mul_succ, Nat.add_comm size]

/-- An MT blob whose cursor is in range holds that cursor and its words (42_mt.md R211, R212). -/
theorem mtOfBlob_of_le {W N size : Nat} (hW : 256 ^ size = 2 ^ W) {bs : List Byte} (h : leValue (bs.take 2) ≤ N) :
    ∃ c : MtCtx W N, mtOfBlob size bs = some c ∧ c.w.val = leValue (bs.take 2)
      ∧ ∀ i, i < N → (mtWord c.mt i).toNat = leValue ((bs.drop (2 + size * i)).take size) := by
  refine ⟨_, dif_pos h, rfl, fun i hi => ?_⟩
  have hword := leWords_getElem W size hi (bs.drop 2)
  rw [List.drop_drop] at hword
  rw [← toNat_ofNat_leValue_take hW, mtWord]
  simp [hword]

theorem mtOfBlob_of_lt {W N size : Nat} {bs : List Byte} (h : N < leValue (bs.take 2)) :
    (mtOfBlob size bs : Option (MtCtx W N)) = none :=
  dif_neg (Nat.not_le.2 h)

theorem nat_or_one_eq (n : Nat) : n ||| 1 = 2 * (n / 2) + 1 := by
  have hhalf : (n ||| 1) / 2 = n / 2 := by rw [Nat.or_div_two, Nat.div_eq_of_lt (by decide : 1 < 2), Nat.or_zero]
  have hlow : (n ||| 1) % 2 = 1 := Nat.or_mod_two_eq_one.2 (.inr rfl)
  omega

/-- Forcing the low bit to 1 (43_pcg.md R311). -/
theorem toNat_loadInc {W : Nat} (hW : 0 < W) (inc : BitVec W) : (loadInc inc).toNat = 2 * (inc.toNat / 2) + 1 := by
  rw [← nat_or_one_eq, ← BitVec.toNat_one hW]
  exact BitVec.toNat_or inc 1

/-- A PCG blob holds its state, and its increment with the low bit forced to 1 (43_pcg.md R309 to R311). -/
theorem toNat_pcgOfBlob {W size : Nat} (h0 : 0 < W) (hW : 256 ^ size = 2 ^ W) (bs : List Byte) :
    (pcgOfBlob W size bs).state.toNat = leValue (bs.take size)
      ∧ (pcgOfBlob W size bs).inc.toNat = 2 * (leValue ((bs.drop size).take size) / 2) + 1 := by
  refine ⟨toNat_ofNat_leValue_take hW bs, ?_⟩
  rw [pcgOfBlob, toNat_loadInc h0, toNat_ofNat_leValue_take hW]

/-! ### LOAD (41_bitgen.md R141) -/

/-- A LOAD of a blob that holds `c`: the context is `c`, its VALID bit is set, and the count of free values goes on by
the blob's unwritten bytes. -/
theorem loadCommand_answers {γ : Type} (u : GenUnit γ) {s : State} {len : Nat} {dec : List Byte → Option γ} {c : γ}
    (hlen : s.len.toNat = len) (hdec : dec (memRead 0 len s).1 = some c) :
    (.next (loadCommand u len dec s) : Host.Outcome State Fault Refusal)
      = .next (complete (construct u c { s with draws := (memRead 0 len s).2.draws })) :=
  congrArg Host.Outcome.next (loadCommand_of_accepted u len dec c hlen hdec)

/-- Settles O58: the frame, and the context of each blob. -/
theorem loadAccepts : Obligations.LoadAccepts := by
  refine ⟨fun s hlen hcur => ?_, fun s hlen hcur => ?_, fun s hlen => ?_, fun s hlen => ?_⟩
  · obtain ⟨c, hdec, hw, hwords⟩ := mtOfBlob_of_le (W := 32) (size := 4) (by decide) hcur
    exact ⟨_, loadCommand_answers mt32Unit (congrArg BitVec.toNat hlen) hdec, hw, hwords, rfl⟩
  · obtain ⟨c, hdec, hw, hwords⟩ := mtOfBlob_of_le (W := 64) (size := 8) (by decide) hcur
    exact ⟨_, loadCommand_answers mt64Unit (congrArg BitVec.toNat hlen) hdec, hw, hwords, rfl⟩
  · obtain ⟨hstate, hinc⟩ := toNat_pcgOfBlob (W := 64) (size := 8) (by decide) (by decide) (memRead 0 16 s).1
    exact ⟨_, loadCommand_answers pcg32Unit (congrArg BitVec.toNat hlen) rfl, hstate, hinc, rfl⟩
  · obtain ⟨hstate, hinc⟩ := toNat_pcgOfBlob (W := 128) (size := 16) (by decide) (by decide) (memRead 0 32 s).1
    exact ⟨_, loadCommand_answers pcg64Unit (congrArg BitVec.toNat hlen) rfl, hstate, hinc, rfl⟩

/-- The four LOADs (30_encoding.md R82). -/
theorem eq_load_of_isLoad {i : Instr} (h : isLoad i = true) :
    i = .mt32Load ∨ i = .mt64Load ∨ i = .pcg32Load ∨ i = .pcg64Load := by
  revert h
  cases i <;> decide

/-- Settles O59: a LOAD rejects for LEN before it reads the blob, and for the cursor after. -/
theorem loadRejects : Obligations.LoadRejects := by
  refine ⟨fun i s hload hlen => ?_, fun s hlen hcur => ?_, fun s hlen hcur => ?_⟩
  · rcases eq_load_of_isLoad hload with rfl | rfl | rfl | rfl
    · exact congrArg Host.Outcome.next (loadCommand_of_len_ne mt32Unit _ _ hlen)
    · exact congrArg Host.Outcome.next (loadCommand_of_len_ne mt64Unit _ _ hlen)
    · exact congrArg Host.Outcome.next (loadCommand_of_len_ne pcg32Unit _ _ hlen)
    · exact congrArg Host.Outcome.next (loadCommand_of_len_ne pcg64Unit _ _ hlen)
  · exact congrArg Host.Outcome.next
      (loadCommand_of_invalid mt32Unit 2498 decMt32 (congrArg BitVec.toNat hlen) (mtOfBlob_of_lt hcur))
  · exact congrArg Host.Outcome.next
      (loadCommand_of_invalid mt64Unit 2498 decMt64 (congrArg BitVec.toNat hlen) (mtOfBlob_of_lt hcur))

/-! ### SAVE, then LOAD (41_bitgen.md R143) -/

/-- A read of what was written takes no free value. -/
theorem memRead_of_buf_eq_write {s : State} {m : Memory} {addr : Nat} {bytes : List Byte}
    (h : s.buf = m.write addr bytes) : memRead addr bytes.length s = (bytes, s) := by
  have hread : s.buf.read bytes.length addr s.draws = (bytes, s.draws) := by rw [h, read_write_self]
  rw [memRead, hread]

/-- A LOAD in any state with the BUF and LEN a SAVE left restores the context: it reads the blob, which is written
whole, so it takes no free value. -/
theorem loadCommand_of_saved {γ : Type} (u : GenUnit γ) {enc : γ → List Byte} {dec : List Byte → Option γ}
    {len : Nat} {s t v : State} (hlt : len < 2 ^ 16) (hlen : (enc (u.ctx s)).length = len)
    (hdec : dec (enc (u.ctx s)) = some (u.ctx s)) (hv : u.valid s = true) (hsave : saveCommand u len enc s = t)
    (hbuf : v.buf = t.buf) (hvlen : v.len = t.len) :
    loadCommand u len dec v = complete (construct u (u.ctx s) v) := by
  rw [saveCommand_of_valid u len enc hv] at hsave
  subst hsave
  have hread : memRead 0 len v = (enc (u.ctx s), v) := by
    rw [← hlen]
    exact memRead_of_buf_eq_write hbuf
  have hlen' : v.len.toNat = len := by
    rw [hvlen]
    exact (BitVec.toNat_ofNat len 16).trans (Nat.mod_eq_of_lt hlt)
  rw [loadCommand_of_accepted u len dec (u.ctx s) hlen' (by rw [hread, hdec]), hread]

/-- Settles O60: each blob holds its context, a PCG's because its increment is odd. -/
theorem saveLoadRoundTrip : Obligations.SaveLoadRoundTrip := by
  refine ⟨fun s t v hv hsave hbuf hlen => ?_, fun s t v hv hsave hbuf hlen => ?_,
    fun s t v hv hodd hsave hbuf hlen => ?_, fun s t v hv hodd hsave hbuf hlen => ?_⟩
  · exact congrArg Host.Outcome.next (loadCommand_of_saved mt32Unit (by decide) (length_encMt32 s.mt32)
      (mtOfBlob_mtBlob 4 (by decide) (by decide) s.mt32) hv (Host.Outcome.next.inj hsave) hbuf hlen)
  · exact congrArg Host.Outcome.next (loadCommand_of_saved mt64Unit (by decide) (length_encMt64 s.mt64)
      (mtOfBlob_mtBlob 8 (by decide) (by decide) s.mt64) hv (Host.Outcome.next.inj hsave) hbuf hlen)
  · exact congrArg Host.Outcome.next (loadCommand_of_saved pcg32Unit (by decide) (length_encPcg32 s.pcg32)
      (congrArg some (pcgOfBlob_pcgBlob 8 (by decide) s.pcg32 hodd)) hv (Host.Outcome.next.inj hsave) hbuf hlen)
  · exact congrArg Host.Outcome.next (loadCommand_of_saved pcg64Unit (by decide) (length_encPcg64 s.pcg64)
      (congrArg some (pcgOfBlob_pcgBlob 16 (by decide) s.pcg64 hodd)) hv (Host.Outcome.next.inj hsave) hbuf hlen)

end Sys2Proof.Machine
end

section
/-! PROOFS. The Mersenne Twisters' in-place loops (42_mt.md R200 to R202, R207, R208, R220, R240): what a sweep over an
array leaves in each word, then the twist and the seeding recurrence as sweeps, and the two SEEDs. -/

namespace Sys2Proof.Machine

variable {W N : Nat}

/-! ### Words of an array -/

theorem mtWord_setIfInBounds (mt : Vector (BitVec W) N) (i j : Nat) (x : BitVec W) :
    mtWord (mt.setIfInBounds i x) j = if i = j ∧ i < N then x else mtWord mt j := by
  rw [mtWord, Vector.getElem?_setIfInBounds]
  by_cases hij : i = j
  · subst hij
    by_cases hi : i < N <;> simp [mtWord, hi]
  · simp [mtWord, hij]

theorem mtWord_set_same (mt : Vector (BitVec W) N) {i : Nat} (hi : i < N) (x : BitVec W) :
    mtWord (mt.setIfInBounds i x) i = x := by
  rw [mtWord_setIfInBounds, if_pos ⟨rfl, hi⟩]

theorem mtWord_set_ne (mt : Vector (BitVec W) N) {i j : Nat} (hij : i ≠ j) (x : BitVec W) :
    mtWord (mt.setIfInBounds i x) j = mtWord mt j := by
  rw [mtWord_setIfInBounds, if_neg fun h => hij h.1]

theorem mtWord_ofFn (f : Fin N → BitVec W) {i : Nat} (hi : i < N) : mtWord (Vector.ofFn f) i = f ⟨i, hi⟩ := by
  simp [mtWord, hi]

/-! ### A sweep: a loop that replaces the words `a .. a + n - 1`, one after the other, in place -/

/-- The loop of R202, R207 and R208: iteration `i` replaces word `i` by `f` of the array as it then stands. -/
def sweep (f : Vector (BitVec W) N → Nat → BitVec W) (a n : Nat) (mt : Vector (BitVec W) N) : Vector (BitVec W) N :=
  (List.range' a n).foldl (fun v i => v.setIfInBounds i (f v i)) mt

section

variable (f : Vector (BitVec W) N → Nat → BitVec W) (a : Nat) (mt : Vector (BitVec W) N)

theorem sweep_succ (n : Nat) :
    sweep f a (n + 1) mt = (sweep f a n mt).setIfInBounds (a + n) (f (sweep f a n mt) (a + n)) := by
  rw [sweep, List.range'_1_concat, List.foldl_append]
  rfl

theorem mtWord_sweep_of_outside {n j : Nat} (h : j < a ∨ a + n ≤ j) : mtWord (sweep f a n mt) j = mtWord mt j := by
  induction n with
  | zero => rfl
  | succ n ih => rw [sweep_succ, mtWord_set_ne _ (by omega), ih (by omega)]

/-- Later iterations leave the words that earlier ones replaced. -/
theorem mtWord_sweep_of_le {m n j : Nat} (hmn : m ≤ n) (h : j < a + m) :
    mtWord (sweep f a n mt) j = mtWord (sweep f a m mt) j := by
  obtain ⟨d, rfl⟩ := Nat.exists_eq_add_of_le hmn
  clear hmn
  induction d with
  | zero => rfl
  | succ d ih => rw [← Nat.add_assoc, sweep_succ, mtWord_set_ne _ (by omega), ih]

/-- The word an iteration replaces is `f` of the array before that iteration. -/
theorem mtWord_sweep {n i : Nat} (hi : i < n) (hN : a + i < N) :
    mtWord (sweep f a n mt) (a + i) = f (sweep f a i mt) (a + i) := by
  rw [mtWord_sweep_of_le f a mt (m := i + 1) hi (by omega), sweep_succ, mtWord_set_same _ hN]

end

/-! ### The twist (42_mt.md R202) -/

/-- Word `i` of the twist from the array before iteration `i`. -/
def twistWord (k : MtConst W) (mt : Vector (BitVec W) N) (i : Nat) : BitVec W :=
  mtWord mt ((i + k.m) % N) ^^^ twistMix k (mtWord mt i) (mtWord mt ((i + 1) % N))

theorem twist_eq_sweep (k : MtConst W) (mt : Vector (BitVec W) N) : twist k mt = sweep (twistWord k) 0 N mt := by
  rw [twist, List.range_eq_range']
  rfl

/-- What iteration `i` reads at place `(i + d) % N`: the old word, until the index wraps to words already replaced. -/
theorem mtWord_sweep_wrapped (f : Vector (BitVec W) N → Nat → BitVec W) (mt : Vector (BitVec W) N) {i d : Nat}
    (hi : i < N) (hd : d < N) :
    mtWord (sweep f 0 i mt) ((i + d) % N)
      = if i < N - d then mtWord mt (i + d) else mtWord (sweep f 0 N mt) (i - (N - d)) := by
  split
  case isTrue h => rw [Nat.mod_eq_of_lt (by omega), mtWord_sweep_of_outside f 0 mt (by omega)]
  case isFalse h =>
    rw [show i + d = N + (i - (N - d)) by omega, Nat.add_mod_left, Nat.mod_eq_of_lt (by omega),
      mtWord_sweep_of_le f 0 mt (Nat.le_of_lt hi) (by omega)]

/-- The twist's recurrence, for every array length and twist offset. -/
theorem mtWord_twist (k : MtConst W) (hm : k.m < N) (hN : 1 < N) (mt : Vector (BitVec W) N) {i : Nat} (hi : i < N) :
    mtWord (twist k mt) i
      = (if i < N - k.m then mtWord mt (i + k.m) else mtWord (twist k mt) (i - (N - k.m)))
        ^^^ twistMix k (mtWord mt i) (if i < N - 1 then mtWord mt (i + 1) else mtWord (twist k mt) 0) := by
  have hword := mtWord_sweep (twistWord k) 0 mt hi (by omega)
  have hold : mtWord (sweep (twistWord k) 0 i mt) i = mtWord mt i := mtWord_sweep_of_outside _ 0 mt (by omega)
  have hlast : i - (N - 1) = 0 := by omega
  rw [Nat.zero_add, twistWord, mtWord_sweep_wrapped _ mt hi hm, mtWord_sweep_wrapped _ mt hi hN, hold, hlast] at hword
  rw [twist_eq_sweep, hword]

/-- Settles O41: the recurrence, at each engine's length, offset and constants. -/
theorem twistRecurrence : Obligations.TwistRecurrence :=
  ⟨fun mt _ hi => mtWord_twist mt32Const (by decide) (by decide) mt hi,
    fun mt _ hi => mtWord_twist mt64Const (by decide) (by decide) mt hi⟩

/-! ### Seeding from one word (42_mt.md R207, R208) -/

theorem mtInit_mt_eq_sweep (k : MtConst W) (s : BitVec W) :
    (mtInit k s : MtCtx W N).mt
      = sweep (fun v i => initWord k (mtWord v (i - 1)) i) 1 (N - 1) ((Vector.replicate N 0).setIfInBounds 0 s) := rfl

theorem mtWord_mtInit_zero (hN : 0 < N) (k : MtConst W) (s : BitVec W) : mtWord (mtInit k s : MtCtx W N).mt 0 = s := by
  rw [mtInit_mt_eq_sweep, mtWord_sweep_of_outside _ 1 _ (by omega), mtWord_set_same _ hN]

theorem mtWord_mtInit (k : MtConst W) (s : BitVec W) {i : Nat} (h1 : 1 ≤ i) (hi : i < N) :
    mtWord (mtInit k s : MtCtx W N).mt i = initWord k (mtWord (mtInit k s : MtCtx W N).mt (i - 1)) i := by
  obtain ⟨j, rfl⟩ := Nat.exists_eq_add_of_le h1
  rw [mtInit_mt_eq_sweep, mtWord_sweep _ 1 _ (by omega) hi,
    mtWord_sweep_of_le _ 1 _ (m := j) (n := N - 1) (by omega) (by omega)]

theorem toNat_initWord (k : MtConst W) (prev : BitVec W) (i : Nat) :
    (initWord k prev i).toNat = (k.f.toNat * (prev.toNat ^^^ prev.toNat / 2 ^ k.shift) + i) % 2 ^ W := by
  rw [initWord, BitVec.toNat_add, BitVec.toNat_mul, BitVec.toNat_xor, BitVec.toNat_ushiftRight,
    Nat.shiftRight_eq_div_pow, BitVec.toNat_ofNat, ← Nat.add_mod]

/-! The frame of SEED and SEEDA. The context is a variable, so that no proof computes a seeding. -/

theorem mt32_construct_answers (c : Mt32) (s : State) (d : Nat) :
    ∃ t, (.next (complete (construct mt32Unit c { s with draws := d })) : Host.Outcome State Fault Refusal) = .next t
      ∧ t.mt32 = c
      ∧ t = { s with mt32 := t.mt32, validMt32 := true, rj := false, busy := false, draws := d } :=
  ⟨_, rfl, rfl, rfl⟩

theorem mt64_construct_answers (c : Mt64) (s : State) (d : Nat) :
    ∃ t, (.next (complete (construct mt64Unit c { s with draws := d })) : Host.Outcome State Fault Refusal) = .next t
      ∧ t.mt64 = c
      ∧ t = { s with mt64 := t.mt64, validMt64 := true, rj := false, busy := false, draws := d } :=
  ⟨_, rfl, rfl, rfl⟩

/-- Settles O42: seeding from A[31:0]. -/
theorem mt32SeedResult : Obligations.Mt32SeedResult := by
  refine ⟨decode_encode .mt32Seed, fun s => ?_⟩
  obtain ⟨t, ht, hctx, hframe⟩ := mt32_construct_answers (init32 (opA32 s)) s s.draws
  refine ⟨t, ht, ?_, ?_, fun i h1 hi => ?_, hframe⟩ <;> rw [hctx, init32]
  · rfl
  · rw [mtWord_mtInit_zero (by decide)]
    exact BitVec.extractLsb'_toNat 0 32 s.a
  · rw [mtWord_mtInit _ _ h1 hi]
    exact toNat_initWord mt32Const _ i

/-- Settles O43: seeding from A[63:0]. -/
theorem mt64SeedResult : Obligations.Mt64SeedResult := by
  refine ⟨decode_encode .mt64Seed, fun s => ?_⟩
  obtain ⟨t, ht, hctx, hframe⟩ := mt64_construct_answers (init64 (opA64 s)) s s.draws
  refine ⟨t, ht, ?_, ?_, fun i h1 hi => ?_, hframe⟩ <;> rw [hctx, init64]
  · rfl
  · rw [mtWord_mtInit_zero (by decide), toNat_opA64]
  · rw [mtWord_mtInit _ _ h1 hi]
    exact toNat_initWord mt64Const _ i

end Sys2Proof.Machine
end

section
/-! PROOFS. Array seeding (42_mt.md R209, R210, R221, R241): one iteration of either pass, the passes, and the two
SEEDAs on an admitted key length. -/

namespace Sys2Proof.Machine

variable {W N : Nat}

/-! ### The passes (42_mt.md R209, R210) -/

theorem wrap_of_lt (mt : Vector (BitVec W) N) {i : Nat} (j : Nat) (hi : i < N) :
    SeedLoop.wrap ⟨mt, i, j⟩ = ⟨mt, i, j⟩ :=
  if_neg (Nat.not_le.2 hi)

theorem wrap_of_eq (mt : Vector (BitVec W) N) {i : Nat} (j : Nat) (hi : i = N) :
    SeedLoop.wrap ⟨mt, i, j⟩ = ⟨mt.setIfInBounds 0 (mtWord mt (N - 1)), 1, j⟩ :=
  if_pos (Nat.le_of_eq hi.symm)

/-- Both passes end an iteration by writing word `i`, going on by one and wrapping. -/
theorem seedIteration_wrap (l : SeedLoop W N) (h1 : 1 ≤ l.i) (hi : l.i < N) (x : BitVec W) (j : Nat) :
    SeedIteration x.toNat l (SeedLoop.wrap ⟨l.mt.setIfInBounds l.i x, l.i + 1, j⟩) := by
  have h0 : 0 ≠ l.i := Nat.ne_of_lt h1
  by_cases hlast : l.i + 1 = N
  · have hN : N - 1 = l.i := by omega
    rw [wrap_of_eq _ j hlast, SeedIteration, if_pos hlast, if_pos hlast, hN, mtWord_set_same _ hi, mtWord_set_ne _ h0,
      mtWord_set_same _ hi, mtWord_set_same _ (Nat.lt_trans h1 hi)]
    exact ⟨rfl, fun n hn _ hne => (mtWord_set_ne _ (Nat.ne_of_lt hn) x).trans (mtWord_set_ne _ hne.symm x),
      rfl, rfl⟩
  · rw [wrap_of_lt _ j (by omega), SeedIteration, if_neg hlast, if_neg hlast, mtWord_set_same _ hi,
      mtWord_set_ne _ h0.symm]
    exact ⟨rfl, fun n _ _ hne => mtWord_set_ne _ hne.symm x, rfl, rfl⟩

theorem wrap_j (l : SeedLoop W N) : l.wrap.j = l.j := by
  rw [SeedLoop.wrap]
  split <;> rfl

theorem toNat_prevMix_mul (k : MtConst W) (l : SeedLoop W N) (m : BitVec W) :
    (l.prevMix k * m).toNat
      = ((mtWord l.mt (l.i - 1)).toNat ^^^ (mtWord l.mt (l.i - 1)).toNat / 2 ^ k.shift) * m.toNat % 2 ^ W := by
  rw [BitVec.toNat_mul, SeedLoop.prevMix, BitVec.toNat_xor, BitVec.toNat_ushiftRight, Nat.shiftRight_eq_div_pow]

/-- The first pass also moves the key index on by one, and back to 0 at the end of the key. -/
theorem seedPass1_iteration (k : MtConst W) (key : List (BitVec W)) (l : SeedLoop W N) (h1 : 1 ≤ l.i) (hi : l.i < N)
    (hj : l.j < key.length) :
    SeedIteration ((mtWord l.mt l.i ^^^ (l.prevMix k * k.pass1)) + key.getD l.j 0 + BitVec.ofNat W l.j).toNat l
        (seedPass1 k key l)
      ∧ (seedPass1 k key l).j = if l.j + 1 = key.length then 0 else l.j + 1 := by
  rw [seedPass1, wrap_j]
  by_cases hend : l.j + 1 = key.length
  · rw [if_pos hend, if_pos (Nat.le_of_eq hend.symm)]
    exact ⟨seedIteration_wrap l h1 hi _ (l.j + 1), rfl⟩
  · rw [if_neg hend, if_neg (show ¬ key.length ≤ l.j + 1 by omega)]
    exact ⟨seedIteration_wrap l h1 hi _ (l.j + 1), wrap_j _⟩

theorem seedPass2_iteration (k : MtConst W) (l : SeedLoop W N) (h1 : 1 ≤ l.i) (hi : l.i < N) :
    SeedIteration ((mtWord l.mt l.i ^^^ (l.prevMix k * k.pass2)) - BitVec.ofNat W l.i).toNat l (seedPass2 k l)
      ∧ (seedPass2 k l).j = l.j :=
  ⟨seedIteration_wrap l h1 hi _ l.j, wrap_j _⟩

/-- Array seeding, for all constants and every length whose indices the words can hold. -/
theorem arraySeeding (k : MtConst W) (hN : 1 < N) (hW : N ≤ 2 ^ W) :
    ArraySeeding (mtInit k (BitVec.ofNat W 19650218) : MtCtx W N).mt (seedPass1 k) (seedPass2 k) k.shift k.pass1.toNat
      k.pass2.toNat k.topWord.toNat (mtInitByArray k) := by
  refine ⟨fun key l h1 hi hj => ?_, fun l h1 hi => ?_, fun key _ => ⟨?_, fun n hn _ => ?_, rfl⟩⟩
  · have hpass := seedPass1_iteration k key l h1 hi hj
    rwa [BitVec.toNat_add, BitVec.toNat_add, BitVec.toNat_xor, toNat_prevMix_mul, BitVec.toNat_ofNat, Nat.mod_add_mod,
      Nat.add_mod_mod] at hpass
  · have hpass := seedPass2_iteration k l h1 hi
    rwa [BitVec.toNat_sub, BitVec.toNat_xor, toNat_prevMix_mul, BitVec.toNat_ofNat,
      Nat.mod_eq_of_lt (Nat.lt_of_lt_of_le hi hW), Nat.add_comm] at hpass
  · exact congrArg BitVec.toNat (mtWord_set_same _ (by omega) k.topWord)
  · exact mtWord_set_ne _ (by omega) k.topWord

/-! ### SEEDA (42_mt.md R221, R241) -/

theorem mtWord_mtInitByArray_zero (hN : 0 < N) (k : MtConst W) (key : List (BitVec W)) :
    mtWord (mtInitByArray k key : MtCtx W N).mt 0 = k.topWord :=
  mtWord_set_same _ hN k.topWord

/-- Key word `i` is the little-endian value of its bytes. -/
theorem toNat_leWords_getD {size : Nat} (hW : 256 ^ size = 2 ^ W) {n i : Nat} (hi : i < n) (bs : List Byte) :
    ((leWords W size n bs).getD i 0).toNat = leValue ((bs.drop (size * i)).take size) := by
  rw [List.getD_eq_getElem?_getD, leWords_getElem W size hi, Option.getD_some, toNat_ofNat_leValue_take hW]

/-- Settles O44: the key words read, the frame, and array seeding at each engine's constants. -/
theorem seedaResults : Obligations.SeedaResults := by
  refine ⟨fun s h1 h2 => ?_, fun s h1 h2 => ?_, arraySeeding mt32Const (by decide) (by decide),
    arraySeeding mt64Const (by decide) (by decide)⟩
  · have hexec := seedaCommand_of_admitted mt32Unit 32 4 625 initByArray32 h1 h2
    obtain ⟨t, ht, hctx, hframe⟩ := mt32_construct_answers _ s _
    refine ⟨_, t, (congrArg _ hexec).trans ht, length_leWords ..,
      fun i hi => toNat_leWords_getD (by decide) hi _, hctx, ?_, ?_, hframe⟩ <;> rw [hctx, initByArray32]
    · exact mtWord_mtInitByArray_zero (by decide) mt32Const _
    · rfl
  · have hexec := seedaCommand_of_admitted mt64Unit 64 8 312 initByArray64 h1 h2
    obtain ⟨t, ht, hctx, hframe⟩ := mt64_construct_answers _ s _
    refine ⟨_, t, (congrArg _ hexec).trans ht, length_leWords ..,
      fun i hi => toNat_leWords_getD (by decide) hi _, hctx, ?_, ?_, hframe⟩ <;> rw [hctx, initByArray64]
    · exact mtWord_mtInitByArray_zero (by decide) mt64Const _
    · rfl

end Sys2Proof.Machine
end

section
/-! PROOFS. The native draws of the Mersenne Twisters (42_mt.md R203 to R206): the tempering bit by bit, and a draw
below the end of the array and at it. -/

namespace Sys2Proof.Machine

variable {W N : Nat}

/-! ### Tempering (42_mt.md R203, R204) -/

theorem getLsbD_xor_shiftRight_and (y m : BitVec W) (u i : Nat) :
    (y ^^^ ((y >>> u) &&& m)).getLsbD i = (y.getLsbD i ^^ (y.getLsbD (i + u) && m.toNat.testBit i)) := by
  rw [BitVec.getLsbD_xor, BitVec.getLsbD_and, BitVec.getLsbD_ushiftRight, BitVec.testBit_toNat, Nat.add_comm]

theorem getLsbD_xor_shiftLeft_and (y m : BitVec W) (s : Nat) {i : Nat} (hi : i < W) :
    (y ^^^ ((y <<< s) &&& m)).getLsbD i
      = (y.getLsbD i ^^ (decide (s ≤ i) && y.getLsbD (i - s) && m.toNat.testBit i)) := by
  rw [BitVec.getLsbD_xor, BitVec.getLsbD_and, BitVec.getLsbD_shiftLeft, BitVec.testBit_toNat, decide_eq_true hi,
    Bool.true_and]
  simp only [← decide_not, Nat.not_lt]

/-- The four steps of tempering, each named by its bits. -/
theorem temperedBits_of_steps (u s t l : Nat) (d b c y y1 y2 y3 : BitVec W) (h1 : y1 = y ^^^ ((y >>> u) &&& d))
    (h2 : y2 = y1 ^^^ ((y1 <<< s) &&& b)) (h3 : y3 = y2 ^^^ ((y2 <<< t) &&& c)) :
    TemperedBits u d.toNat s b.toNat t c.toNat l y (y3 ^^^ (y3 >>> l)) := by
  refine ⟨y1, y2, y3, fun i hi => ⟨?_, ?_, ?_, ?_⟩⟩
  · rw [h1, getLsbD_xor_shiftRight_and]
  · rw [h2, getLsbD_xor_shiftLeft_and _ _ _ hi]
  · rw [h3, getLsbD_xor_shiftLeft_and _ _ _ hi]
  · rw [BitVec.getLsbD_xor, BitVec.getLsbD_ushiftRight, Nat.add_comm]

/-- R203's first shift has no mask, which is the mask of all ones. -/
theorem temper32_bits (y : Word32) :
    TemperedBits 11 0xFFFFFFFF 7 0x9D2C5680 15 0xEFC60000 18 y (temper32 y) :=
  temperedBits_of_steps 11 7 15 18 (BitVec.allOnes 32) 0x9D2C5680 0xEFC60000 y (y ^^^ (y >>> 11)) _ _
    (by rw [BitVec.and_allOnes]) rfl rfl

theorem temper64_bits (y : Word64) :
    TemperedBits 29 0x5555555555555555 17 0x71D67FFFEDA60000 37 0xFFF7EEE000000000 43 y (temper64 y) :=
  temperedBits_of_steps 29 17 37 43 0x5555555555555555 0x71D67FFFEDA60000 0xFFF7EEE000000000 y _ _ _ rfl rfl rfl

/-! ### Extraction (42_mt.md R205, R206) -/

section

variable (k : MtConst W) (temper : BitVec W → BitVec W) (c : MtCtx W N)

theorem mtGen_of_lt (h : c.w.val < N) :
    (mtGen k temper c).1 = temper (mtWord c.mt c.w.val) ∧ (mtGen k temper c).2.mt = c.mt
      ∧ (mtGen k temper c).2.w.val = c.w.val + 1 := by
  rw [mtGen, mtReady, if_neg (Nat.ne_of_lt h)]
  exact ⟨rfl, rfl, Fin.val_add_one_of_lt h⟩

theorem mtGen_of_eq (hN : 0 < N) (h : c.w.val = N) :
    (mtGen k temper c).1 = temper (mtWord (twist k c.mt) 0) ∧ (mtGen k temper c).2.mt = twist k c.mt
      ∧ (mtGen k temper c).2.w.val = 1 := by
  rw [mtGen, mtReady, if_pos h]
  exact ⟨rfl, rfl, Fin.val_add_one_of_lt hN⟩

end

/-- Settles O46: the tempering, and a draw in each of its two cases. -/
theorem mtNativeDraws : Obligations.MtNativeDraws :=
  ⟨temper32_bits, temper64_bits,
    fun c => ⟨mtGen_of_lt mt32Const temper32 c, mtGen_of_eq mt32Const temper32 c (by decide)⟩,
    fun c => ⟨mtGen_of_lt mt64Const temper64 c, mtGen_of_eq mt64Const temper64 c (by decide)⟩⟩

end Sys2Proof.Machine
end

section
/-! PROOFS. MT32 jump-ahead (42_mt.md R213 to R216, R227): the stream after a jump, jumps put together, and the
stream of a context by the window recurrence. -/

namespace Sys2Proof.Machine

/-! ### JUMP (42_mt.md R214, R227) -/

theorem dropStream_zero {ω : Type} (x : Nat → ω) : dropStream 0 x = x :=
  funext fun n => congrArg x (Nat.zero_add n)

theorem dropStream_dropStream {ω : Type} (m n : Nat) (x : Nat → ω) :
    dropStream n (dropStream m x) = dropStream (m + n) x :=
  funext fun i => congrArg x (Nat.add_assoc m n i).symm

/-- R214's stream property, which a count of 0 has as well. -/
theorem outputStream_jumpMt32 (c : Mt32) (k : Nat) :
    outputStream genMt32 (jumpMt32 c k) = dropStream (k * 2 ^ 128) (outputStream genMt32 c) := by
  rw [jumpMt32]
  split
  case isTrue h => rw [h, Nat.zero_mul, dropStream_zero]
  case isFalse h => exact jumpRep_spec c k (by omega)

theorem exec_mt32Jump {s : State} (hv : s.validMt32 = true) (hk : s.a.toNat % 2 ^ 64 < 2 ^ 63) :
    exec .mt32Jump s
      = .next { s with mt32 := jumpMt32 s.mt32 (s.a.toNat % 2 ^ 64), rj := false, busy := false } := by
  have hcount := opJumpCount_of_lt hk
  have hexec := execMt32Jump_of_count hv (hcount ▸ Int.natCast_nonneg _)
  rw [hcount, Int.toNat_natCast] at hexec
  exact hexec

/-- What a jump leaves of the fields that another command of its unit reads. -/
theorem of_exec_mt32Jump {s t : State} (hv : s.validMt32 = true) (hk : s.a.toNat % 2 ^ 64 < 2 ^ 63)
    (h : exec .mt32Jump s = .next t) :
    t.validMt32 = true ∧ t.a = s.a
      ∧ outputStream genMt32 t.mt32 = dropStream (s.a.toNat % 2 ^ 64 * 2 ^ 128) (outputStream genMt32 s.mt32) := by
  obtain rfl := Host.Outcome.next.inj ((exec_mt32Jump hv hk).symm.trans h)
  exact ⟨hv, rfl, outputStream_jumpMt32 s.mt32 _⟩

/-- What a draw leaves of the fields that another command of its unit reads. -/
theorem of_exec_mt32Next32 {s t : State} (hv : s.validMt32 = true) (h : exec .mt32Next32 s = .next t) :
    t.validMt32 = true ∧ t.a = s.a ∧ outputStream genMt32 t.mt32 = dropStream 1 (outputStream genMt32 s.mt32) := by
  obtain rfl := Host.Outcome.next.inj ((congrArg _ (drawCommand_of_valid mt32Unit _ hv)).symm.trans h)
  exact ⟨hv, rfl, outputStream_ctxAfter genMt32 1 s.mt32⟩

/-- Settles O47: the frame, a count of 0, and the stream. -/
theorem mt32JumpResult : Obligations.Mt32JumpResult := by
  refine ⟨decode_encode .mt32Jump, fun s hv hk => ⟨_, exec_mt32Jump hv hk, rfl, fun h0 => ?_, fun _ n => ?_⟩⟩
  · exact if_pos h0
  · exact congrFun (outputStream_jumpMt32 s.mt32 _) n

/-- Settles O48: what is dropped of the stream adds up, in either order. -/
theorem jumpsComposeAndCommute : Obligations.JumpsComposeAndCommute := by
  refine ⟨fun s s1 s2 s3 x y hv hsum hy h1 h2 h3 => ?_, fun s d dj j jd hv hk hd hdj hj hjd => ?_⟩
  · obtain ⟨hv1, -, hs1⟩ := of_exec_mt32Jump hv (by omega) h1
    obtain ⟨-, -, hs2⟩ := of_exec_mt32Jump (s := { s1 with a := x }) hv1 (by dsimp only; omega) h2
    obtain ⟨-, -, hs3⟩ := of_exec_mt32Jump (s := { s with a := y }) hv (by dsimp only; omega) h3
    rw [OutputEquivalent, hs2, hs1, hs3, dropStream_dropStream]
    dsimp only
    rw [hy, Nat.add_mul]
  · obtain ⟨hvd, had, hsd⟩ := of_exec_mt32Next32 hv hd
    obtain ⟨hvj, -, hsj⟩ := of_exec_mt32Jump hv hk hj
    obtain ⟨-, -, hsdj⟩ := of_exec_mt32Jump hvd (had ▸ hk) hdj
    obtain ⟨-, -, hsjd⟩ := of_exec_mt32Next32 hvj hjd
    rw [OutputEquivalent, hsdj, hsd, had, hsjd, hsj, dropStream_dropStream, dropStream_dropStream, Nat.add_comm]

/-! ### A context's stream by a recurrence (42_mt.md R205, R216) -/

section

variable {W N : Nat} (k : MtConst W) (temper : BitVec W → BitVec W) (x : Nat → BitVec W)

/-- An infinite sequence of words in which each word is the twist's of the word `N` places before it. -/
def MtRecurrence (N : Nat) : Prop :=
  ∀ n, x (n + N) = x (n + k.m) ^^^ twistMix k (x n) (x (n + 1))

/-- A context whose array is `N` successive words of a sequence, with the cursor at place `p` of the sequence. -/
def HoldsWordsOf (p : Nat) (c : MtCtx W N) : Prop :=
  ∃ b, b + c.w.val = p ∧ ∀ i, i < N → mtWord c.mt i = x (b + i)

variable {k x}

/-- The twist of `N` successive words is the next `N` words. -/
theorem mtWord_twist_of_recurrence (hm : k.m < N) (hN : 1 < N) (hx : MtRecurrence k x N)
    {mt : Vector (BitVec W) N} {b : Nat} (h : ∀ i, i < N → mtWord mt i = x (b + i)) {i : Nat} (hi : i < N) :
    mtWord (twist k mt) i = x (b + N + i) := by
  induction i using Nat.strongRecOn with
  | ind i ih =>
    have hfar :
        (if i < N - k.m then mtWord mt (i + k.m) else mtWord (twist k mt) (i - (N - k.m))) = x (b + i + k.m) := by
      split
      case isTrue hlt => rw [h _ (by omega), Nat.add_assoc]
      case isFalse hge => rw [ih _ (by omega) (by omega), show b + N + (i - (N - k.m)) = b + i + k.m by omega]
    have hnext : (if i < N - 1 then mtWord mt (i + 1) else mtWord (twist k mt) 0) = x (b + i + 1) := by
      split
      case isTrue hlt => rw [h _ (by omega), Nat.add_assoc]
      case isFalse hge => rw [ih 0 (by omega) (by omega), show b + N + 0 = b + i + 1 by omega]
    rw [mtWord_twist k hm hN mt hi, hfar, hnext, h i hi, ← hx, Nat.add_right_comm]

/-- A draw is the tempered word at the cursor's place, and the cursor goes on by one place. -/
theorem mtGen_of_holdsWordsOf (hm : k.m < N) (hN : 1 < N) (hx : MtRecurrence k x N) {p : Nat} {c : MtCtx W N}
    (h : HoldsWordsOf x p c) :
    (mtGen k temper c).1 = temper (x p) ∧ HoldsWordsOf x (p + 1) (mtGen k temper c).2 := by
  obtain ⟨b, rfl, hwords⟩ := h
  by_cases hw : c.w.val = N
  · obtain ⟨hout, hmt, hcur⟩ := mtGen_of_eq k temper c (by omega) hw
    refine ⟨?_, b + N, by omega, fun i hi => ?_⟩
    · rw [hout, mtWord_twist_of_recurrence hm hN hx hwords (by omega), hw, Nat.add_zero]
    · rw [hmt, mtWord_twist_of_recurrence hm hN hx hwords hi]
  · have hlt : c.w.val < N := by omega
    obtain ⟨hout, hmt, hcur⟩ := mtGen_of_lt k temper c hlt
    refine ⟨?_, b, by omega, fun i hi => ?_⟩
    · rw [hout, hwords _ hlt]
    · rw [hmt, hwords i hi]

theorem outputStream_of_holdsWordsOf (hm : k.m < N) (hN : 1 < N) (hx : MtRecurrence k x N) {p : Nat} {c : MtCtx W N}
    (h : HoldsWordsOf x p c) (n : Nat) : outputStream (mtGen k temper) c n = temper (x (p + n)) := by
  induction n generalizing p c with
  | zero => exact (mtGen_of_holdsWordsOf temper hm hN hx h).1
  | succ n ih =>
    calc outputStream (mtGen k temper) c (n + 1)
        = outputStream (mtGen k temper) (mtGen k temper c).2 n := rfl
      _ = temper (x (p + 1 + n)) := ih (mtGen_of_holdsWordsOf temper hm hN hx h).2
      _ = temper (x (p + (n + 1))) := by rw [Nat.add_assoc, Nat.add_comm 1]

end

/-! ### The window recurrence (42_mt.md R216) -/

theorem windowAfter_succ (n : Nat) (v : Vector Word32 624) : windowAfter (n + 1) v = windowStep (windowAfter n v) := by
  induction n generalizing v with
  | zero => rfl
  | succ n ih => exact ih (windowStep v)

theorem mtWord_windowStep_of_lt (v : Vector Word32 624) {i : Nat} (h : i < 623) :
    mtWord (windowStep v) i = mtWord v (i + 1) :=
  (mtWord_ofFn _ (by omega)).trans (if_pos h)

theorem mtWord_windowStep_last (v : Vector Word32 624) :
    mtWord (windowStep v) 623 = mtWord v 397 ^^^ twistMix mt32Const (mtWord v 0) (mtWord v 1) :=
  (mtWord_ofFn _ (by omega)).trans (if_neg (by decide))

/-- The sequence the window slides along: its word `n` is the first word of the window after `n` steps. -/
def windowSeq (v : Vector Word32 624) (n : Nat) : Word32 := mtWord (windowAfter n v) 0

theorem mtWord_windowAfter (v : Vector Word32 624) (n : Nat) {i : Nat} (hi : i < 624) :
    mtWord (windowAfter n v) i = windowSeq v (n + i) := by
  induction i generalizing n with
  | zero => rfl
  | succ i ih =>
    rw [← mtWord_windowStep_of_lt _ (by omega), ← windowAfter_succ, ih _ (by omega), Nat.add_right_comm,
      Nat.add_assoc]

theorem windowSeq_recurrence (v : Vector Word32 624) : MtRecurrence mt32Const (windowSeq v) 624 := by
  intro n
  have hlast := mtWord_windowStep_last (windowAfter n v)
  rw [← windowAfter_succ, mtWord_windowAfter v _ (by omega), mtWord_windowAfter v n (by omega),
    mtWord_windowAfter v n (by omega), mtWord_windowAfter v n (by omega)] at hlast
  rwa [show n + 624 = n + 1 + 623 by omega]

/-- Settles O49: the array is a window of the sequence, and the cursor stands behind it. -/
theorem twistIsWindowRecurrence : Obligations.TwistIsWindowRecurrence := by
  intro v n
  have hstart : HoldsWordsOf (windowSeq v) 624 (⟨v, Fin.last 624⟩ : Mt32) :=
    ⟨0, rfl, fun i hi => mtWord_windowAfter v 0 hi⟩
  calc outputStream genMt32 ⟨v, Fin.last 624⟩ n
      = temper32 (windowSeq v (624 + n)) :=
        outputStream_of_holdsWordsOf temper32 (by decide) (by decide) (windowSeq_recurrence v) hstart n
    _ = temper32 (mtWord (windowAfter (n + 1) v) 623) := by
        rw [mtWord_windowAfter v _ (by omega), show 624 + n = n + 1 + 623 by omega]

end Sys2Proof.Machine
end

section
/-! PROOFS. The Permuted Congruential Generators (43_pcg.md R300 to R307, R320, R326, R340, R346): the native draws, the
two SEEDs, and the advance as so many LCG steps, whose period makes counts add up modulo the width. -/

namespace Sys2Proof.Machine

variable {W : Nat}

/-! ### Native draws (43_pcg.md R301, R303 to R306) -/

theorem toNat_pcgStep_state (mul : BitVec W) (c : PcgCtx W) :
    (pcgStep mul c).state.toNat = (c.state.toNat * mul.toNat + c.inc.toNat) % 2 ^ W := by
  rw [pcgStep, BitVec.toNat_add, BitVec.toNat_mul, Nat.mod_add_mod]

theorem getLsbD_xshRr (s : Word64) {i : Nat} (hi : i < 32) :
    (xshRr s).getLsbD i = (((s >>> 18) ^^^ s) >>> 27).getLsbD ((i + s.toNat / 2 ^ 59) % 32) := by
  have hfold : (i + s.toNat / 2 ^ 59) % 32 < 32 := Nat.mod_lt _ (by decide)
  rw [xshRr, getLsbD_rotr hi, BitVec.toNat_ushiftRight, Nat.shiftRight_eq_div_pow, BitVec.getLsbD_extractLsb',
    decide_eq_true hfold, Bool.true_and, Nat.zero_add]

theorem getLsbD_xslRr (s : Word128) {i : Nat} (hi : i < 64) :
    (xslRr s).getLsbD i
      = (s.getLsbD (64 + (i + s.toNat / 2 ^ 122) % 64) ^^ s.getLsbD ((i + s.toNat / 2 ^ 122) % 64)) := by
  have hfold : (i + s.toNat / 2 ^ 122) % 64 < 64 := Nat.mod_lt _ (by decide)
  rw [xslRr, getLsbD_rotr hi, BitVec.toNat_ushiftRight, Nat.shiftRight_eq_div_pow, BitVec.getLsbD_xor,
    BitVec.getLsbD_extractLsb', BitVec.getLsbD_extractLsb', decide_eq_true hfold, Bool.true_and, Bool.true_and,
    Nat.zero_add]

/-- `MUL64` (43_pcg.md R300). -/
theorem toNat_mul64 : mul64.toNat = 6364136223846793005 := rfl

/-- `MUL128` (43_pcg.md R300). -/
theorem toNat_mul128 : mul128.toNat = 0x2360ED051FC65DA44385DF649FCCF645 := rfl

/-- Settles O50: the output is the fold of the state before the step, rotated by that state's top bits. -/
theorem pcgNativeDraws : Obligations.PcgNativeDraws := by
  refine ⟨fun c => ⟨genPcg32_inc c, ?_, fun _ hi => getLsbD_xshRr c.state hi⟩,
    fun c => ⟨genPcg64_inc c, ?_, fun _ hi => getLsbD_xslRr c.state hi⟩⟩
  · rw [← toNat_mul64]
    exact toNat_pcgStep_state mul64 c
  · rw [← toNat_mul128]
    exact toNat_pcgStep_state mul128 c

/-! ### SEED (43_pcg.md R302, R320, R340) -/

/-- Doubling leaves the low bit 0, so forcing it to 1 adds 1. -/
theorem toNat_shiftLeft_one_or_one (hW : 0 < W) (x : BitVec W) :
    (x <<< 1 ||| 1).toNat = (2 * x.toNat + 1) % 2 ^ W := by
  have hone : (1 : BitVec W).toNat = 1 := BitVec.toNat_one hW
  have hadd : x <<< 1 + (1 : BitVec W) = x <<< 1 ||| 1 := by
    have h := BitVec.shiftLeft_add_eq_shiftLeft_or (x := (1 : BitVec W)) (y := x)
    rwa [BitVec.shiftLeft_eq', hone] at h
  rw [← hadd, BitVec.toNat_add, BitVec.toNat_shiftLeft, hone, Nat.shiftLeft_eq, Nat.pow_one, Nat.mul_comm,
    Nat.mod_add_mod]

/-- The first of the two steps only copies the increment to the state. -/
theorem pcgSeed_eq (mul initstate initseq : BitVec W) :
    pcgSeed mul initstate initseq
      = pcgStep mul ⟨(initseq <<< 1 ||| 1) + initstate, initseq <<< 1 ||| 1⟩ := by
  rw [pcgSeed]
  simp only [pcgStep, BitVec.ofNat_eq_ofNat, BitVec.zero_mul, BitVec.zero_add]

section

variable {mul initstate initseq : BitVec W} {a b : Nat}

theorem toNat_pcgSeed_inc (hW : 0 < W) (hb : initseq.toNat = b % 2 ^ W) :
    (pcgSeed mul initstate initseq).inc.toNat = (2 * b + 1) % 2 ^ W := by
  calc (initseq <<< 1 ||| 1).toNat
      = (2 * (b % 2 ^ W) + 1) % 2 ^ W := by rw [toNat_shiftLeft_one_or_one hW, hb]
    _ = (2 * b + 1) % 2 ^ W := by rw [← Nat.mod_add_mod, Nat.mul_mod_mod, Nat.mod_add_mod]

theorem toNat_pcgSeed_state (ha : initstate.toNat = a % 2 ^ W) :
    (pcgSeed mul initstate initseq).state.toNat
      = (((pcgSeed mul initstate initseq).inc.toNat + a) * mul.toNat
          + (pcgSeed mul initstate initseq).inc.toNat) % 2 ^ W := by
  rw [pcgSeed_eq, toNat_pcgStep_state, pcgStep, BitVec.toNat_add, ha, Nat.add_mod_mod, ← Nat.mod_add_mod,
    Nat.mod_mul_mod, Nat.mod_add_mod]

end

/-- The frame of `pcg32.seed`. -/
theorem pcg32_construct_answers (c : Pcg32) (s : State) :
    ∃ t, (.next (complete (construct pcg32Unit c s)) : Host.Outcome State Fault Refusal) = .next t
      ∧ t.pcg32 = c ∧ t = { s with pcg32 := t.pcg32, validPcg32 := true, rj := false, busy := false } :=
  ⟨_, rfl, rfl, rfl⟩

/-- The frame of `pcg64.seed`. -/
theorem pcg64_construct_answers (c : Pcg64) (s : State) :
    ∃ t, (.next (complete (construct pcg64Unit c s)) : Host.Outcome State Fault Refusal) = .next t
      ∧ t.pcg64 = c ∧ t = { s with pcg64 := t.pcg64, validPcg64 := true, rj := false, busy := false } :=
  ⟨_, rfl, rfl, rfl⟩

/-- Settles O51: seeding from the low halves of A and B, and from A and B. -/
theorem pcgSeedResults : Obligations.PcgSeedResults := by
  refine ⟨decode_encode .pcg32Seed, decode_encode .pcg64Seed, fun s => ?_, fun s => ?_⟩
  · obtain ⟨t, ht, hctx, hframe⟩ := pcg32_construct_answers (pcgSeed mul64 (opA64 s) (opB64 s)) s
    refine ⟨t, ht, ?_, ?_, hframe⟩ <;> rw [hctx]
    · exact toNat_pcgSeed_inc (by decide) (toNat_opB64 s)
    · rw [← toNat_mul64]
      exact toNat_pcgSeed_state (toNat_opA64 s)
  · obtain ⟨t, ht, hctx, hframe⟩ := pcg64_construct_answers (pcgSeed mul128 s.a s.b) s
    refine ⟨t, ht, ?_, ?_, hframe⟩ <;> rw [hctx]
    · exact toNat_pcgSeed_inc (by decide) (Nat.mod_eq_of_lt s.b.isLt).symm
    · rw [← toNat_mul128]
      exact toNat_pcgSeed_state (Nat.mod_eq_of_lt s.a.isLt).symm

/-! ### Loops: so many rounds of one function -/

section

variable {α : Type} (body : α → α)

theorem repeatLoop_add (m n : Nat) (x : α) :
    repeatLoop body (m + n) x = repeatLoop body n (repeatLoop body m x) := by
  induction m generalizing x with
  | zero => rw [Nat.zero_add, repeatLoop]
  | succ m ih => rw [Nat.succ_add, repeatLoop, ih, repeatLoop]

/-- `n` rounds of two rounds each. -/
theorem repeatLoop_repeatLoop_two (n : Nat) (x : α) :
    repeatLoop (repeatLoop body 2) n x = repeatLoop body (2 * n) x := by
  induction n generalizing x with
  | zero => rfl
  | succ n ih => rw [repeatLoop, ih, ← repeatLoop_add, Nat.add_comm, Nat.mul_succ]

variable {body} {p : Nat}

theorem repeatLoop_mul_of_period (hp : ∀ x, repeatLoop body p x = x) (k : Nat) (x : α) :
    repeatLoop body (p * k) x = x := by
  induction k with
  | zero => rfl
  | succ k ih => rw [Nat.mul_succ, repeatLoop_add, ih, hp]

theorem repeatLoop_mod_of_period (hp : ∀ x, repeatLoop body p x = x) (n : Nat) (x : α) :
    repeatLoop body (n % p) x = repeatLoop body n x := by
  have hn := repeatLoop_add body (p * (n / p)) (n % p) x
  rw [Nat.div_add_mod, repeatLoop_mul_of_period hp] at hn
  exact hn.symm

end

/-! ### The advance and its meaning (43_pcg.md R307, R308) -/

/-- What an affine map does to a word (43_pcg.md R308). -/
def Affine.apply (p : Affine W) (x : BitVec W) : BitVec W := p.mul * x + p.add

/-- The map `affinePower` makes of its running total and the current bit's map applies one after the other. -/
theorem Affine.apply_comp (p q : Affine W) (x : BitVec W) :
    Affine.apply ⟨p.mul * q.mul, p.add * q.mul + q.add⟩ x = q.apply (p.apply x) := by
  simp only [Affine.apply]
  grind

/-- The map `affinePower` makes for the next bit applies the current one twice. -/
theorem Affine.apply_square (p : Affine W) :
    Affine.apply ⟨p.mul * p.mul, (p.mul + 1) * p.add⟩ = repeatLoop p.apply 2 := by
  funext x
  simp only [Affine.apply, repeatLoop]
  grind

/-- Walking the bits of a count composes the map as often as the count says (43_pcg.md R308): `n` is
`n % 2 + 2 * (n / 2)`. -/
theorem apply_affinePower {fuel n : Nat} (h : n < 2 ^ fuel) (acc cur : Affine W) (x : BitVec W) :
    (affinePower fuel n acc cur).apply x = repeatLoop cur.apply n (acc.apply x) := by
  induction fuel generalizing n acc cur with
  | zero =>
    obtain rfl : n = 0 := Nat.lt_one_iff.1 h
    rfl
  | succ fuel ih =>
    have hbit : (if n % 2 = 1 then ⟨acc.mul * cur.mul, acc.add * cur.mul + cur.add⟩ else acc : Affine W).apply x
        = repeatLoop cur.apply (n % 2) (acc.apply x) := by
      rcases Nat.mod_two_eq_zero_or_one n with h0 | h1
      · rw [h0, if_neg Nat.zero_ne_one, repeatLoop]
      · rw [h1, if_pos rfl, Affine.apply_comp, repeatLoop, repeatLoop]
    rw [affinePower, ih (by omega), hbit, Affine.apply_square, repeatLoop_repeatLoop_two, ← repeatLoop_add,
      Nat.mod_add_div]

/-- A step keeps the increment and applies one affine map to the state (43_pcg.md R301). -/
theorem repeatLoop_pcgStep (mul : BitVec W) (c : PcgCtx W) (n : Nat) :
    repeatLoop (pcgStep mul) n c = { c with state := repeatLoop (Affine.apply ⟨mul, c.inc⟩) n c.state } := by
  induction n generalizing c with
  | zero => rfl
  | succ n ih =>
    have hstep : (pcgStep mul c).state = Affine.apply ⟨mul, c.inc⟩ c.state :=
      congrArg (· + c.inc) (BitVec.mul_comm c.state mul)
    rw [repeatLoop, ih, hstep, pcgStep_inc, repeatLoop]

/-- The advance is as many steps as the count says (43_pcg.md R307). -/
theorem pcgAdvance_eq_repeatLoop (mul : BitVec W) (c : PcgCtx W) (n : BitVec W) :
    pcgAdvance mul c n = repeatLoop (pcgStep mul) n.toNat c := by
  have hidentity : Affine.apply ⟨1, 0⟩ c.state = c.state := by
    rw [Affine.apply, BitVec.ofNat_eq_ofNat, BitVec.ofNat_eq_ofNat, BitVec.one_mul, BitVec.add_zero]
  have happly := apply_affinePower n.isLt ⟨1, 0⟩ ⟨mul, c.inc⟩ c.state
  rw [hidentity] at happly
  rw [repeatLoop_pcgStep, ← happly, pcgAdvance, Affine.apply]

/-- Settles O52: each count, A[63:0] or A, is below 2^W. -/
theorem advanceIsRepeatedStep : Obligations.AdvanceIsRepeatedStep := by
  refine ⟨decode_encode .pcg32Adv, decode_encode .pcg64Adv, fun s hv => ?_, fun s hv => ?_⟩
  · rw [← toNat_opA64, ← pcgAdvance_eq_repeatLoop]
    exact congrArg Host.Outcome.next (moveCommand_of_valid pcg32Unit _ hv)
  · rw [← pcgAdvance_eq_repeatLoop]
    exact congrArg Host.Outcome.next (moveCommand_of_valid pcg64Unit _ hv)

/-! ### The period of the step (43_pcg.md R307) -/

section

variable {mul half : BitVec W} (hodd : mul = 2 * half + 1)

include hodd

/-- Each doubling of the number of times an odd-multiplier map is applied fixes one more low bit. -/
theorem exists_repeatLoop_two_pow_affine (add : BitVec W) (k : Nat) :
    ∃ d e, ∀ x, repeatLoop (Affine.apply ⟨mul, add⟩) (2 ^ k) x
      = x + BitVec.ofNat W (2 ^ k) * (2 * d * x + e) := by
  induction k with
  | zero =>
    refine ⟨half, add, fun x => ?_⟩
    rw [Nat.pow_zero, BitVec.one_mul, repeatLoop, repeatLoop, Affine.apply, hodd]
    grind
  | succ k ih =>
    obtain ⟨d, e, h⟩ := ih
    refine ⟨d + d * BitVec.ofNat W (2 ^ k) * d, e + d * BitVec.ofNat W (2 ^ k) * e, fun x => ?_⟩
    rw [Nat.pow_succ, Nat.mul_two, repeatLoop_add, h, h, BitVec.ofNat_add]
    grind

/-- `2^W` steps fix all `W` bits: the period divides `2^W`. -/
theorem repeatLoop_pcgStep_two_pow (c : PcgCtx W) : repeatLoop (pcgStep mul) (2 ^ W) c = c := by
  obtain ⟨d, e, h⟩ := exists_repeatLoop_two_pow_affine hodd c.inc W
  have hzero : BitVec.ofNat W (2 ^ W) = 0#W := BitVec.eq_of_toNat_eq (Nat.mod_self _)
  rw [repeatLoop_pcgStep, h, hzero, BitVec.zero_mul, BitVec.add_zero]

/-- Counts add up modulo `2^W`, a multiple of the period (43_pcg.md R307). -/
theorem pcgAdvance_pcgAdvance (c : PcgCtx W) (n m : BitVec W) :
    pcgAdvance mul (pcgAdvance mul c n) m = pcgAdvance mul c (n + m) := by
  rw [pcgAdvance_eq_repeatLoop, pcgAdvance_eq_repeatLoop, pcgAdvance_eq_repeatLoop, ← repeatLoop_add,
    BitVec.toNat_add, repeatLoop_mod_of_period (repeatLoop_pcgStep_two_pow hodd)]

end

theorem mul64_odd : mul64 = 2 * 3182068111923396502 + 1 := by decide

theorem mul128_odd : mul128 = 2 * 0x11B076828FE32ED221C2EFB24FE67B22 + 1 := by decide

/-- Settles O53: both multipliers are odd. -/
theorem advancesCompose : Obligations.AdvancesCompose :=
  ⟨pcgAdvance_pcgAdvance mul64_odd, pcgAdvance_pcgAdvance mul128_odd⟩

end Sys2Proof.Machine
end

section
/-! PROOFS. Faults (60_exceptions.md R401, R403, R405, R410, R411): the causes of NOSEED and PRECOND, then what a
faulted and a halted block keep until reset. -/

namespace Sys2Proof.Machine

/-! ### NOSEED (60_exceptions.md R405) -/

/-- Every command that needs a context begins with its own unit's context check (41_bitgen.md R133). -/
theorem exec_of_invalid {i : Instr} {s : State} (hn : needsContext i = true) (hv : validOf s (unitOf i) = false) :
    exec i s = .next (raiseFault .noseed s) := by
  cases i with
  | mt32Next32 | mt32Next64 | mt32Next128 | mt32Bit =>
    exact congrArg Host.Outcome.next (drawCommand_of_invalid mt32Unit _ hv)
  | mt64Next32 | mt64Next64 | mt64Next128 | mt64Bit =>
    exact congrArg Host.Outcome.next (drawCommand_of_invalid mt64Unit _ hv)
  | pcg32Next32 | pcg32Next64 | pcg32Next128 | pcg32Bit =>
    exact congrArg Host.Outcome.next (drawCommand_of_invalid pcg32Unit _ hv)
  | pcg64Next32 | pcg64Next64 | pcg64Next128 | pcg64Bit =>
    exact congrArg Host.Outcome.next (drawCommand_of_invalid pcg64Unit _ hv)
  | mt32Jump => exact execMt32Jump_of_invalid hv
  | pcg32Adv => exact congrArg Host.Outcome.next (moveCommand_of_invalid pcg32Unit _ hv)
  | pcg64Adv => exact congrArg Host.Outcome.next (moveCommand_of_invalid pcg64Unit _ hv)
  | mt32Save => exact congrArg Host.Outcome.next (saveCommand_of_invalid mt32Unit _ _ hv)
  | mt64Save => exact congrArg Host.Outcome.next (saveCommand_of_invalid mt64Unit _ _ hv)
  | pcg32Save => exact congrArg Host.Outcome.next (saveCommand_of_invalid pcg32Unit _ _ hv)
  | pcg64Save => exact congrArg Host.Outcome.next (saveCommand_of_invalid pcg64Unit _ _ hv)
  | _ => exact absurd hn (by decide)

/-- Settles O22: the context check raises NOSEED. -/
theorem noseedWithoutContext : Obligations.NoseedWithoutContext :=
  fun _ _ => exec_of_invalid

/-! ### PRECOND (60_exceptions.md R403) -/

/-- A recorded PRECOND has one of its three causes: no other command raises it. -/
theorem precondCause_of_exec {i : Instr} {s t : State} (h : exec i s = .next t) (hs : s.code = .none)
    (ht : t.code = .precond) : PrecondCause i s := by
  have hkept : t.code ≠ s.code := by simp [hs, ht]
  rcases exec_cases h with ⟨code, d, -, hcause, rfl⟩ | ⟨-, d, rfl⟩ | ⟨-, bytes, len, -, rfl⟩ | ⟨-, rfl⟩ |
    ⟨-, r, c, -, rfl⟩ | ⟨-, r, c, v, d, -, -, rfl⟩ | ⟨-, r, c, v, d, -, -, rfl⟩ |
    ⟨-, r, c, v, d, -, -, rfl, -⟩ | ⟨-, r, c, v, d, -, -, rfl, -⟩
  case inl => exact hcause ((if_pos hs).symm.trans ht)
  all_goals exact absurd rfl hkept

/-- Settles O23: each cause raises PRECOND, and nothing else does. -/
theorem precondCauses : Obligations.PrecondCauses :=
  ⟨fun _ hv hk => execMt32Jump_of_negative hv (opJumpCount_of_ge hk),
    fun _ h => congrArg Host.Outcome.next (seedaCommand_of_bad mt32Unit _ _ _ _ h),
    fun _ h => congrArg Host.Outcome.next (seedaCommand_of_bad mt64Unit _ _ _ _ h),
    fun _ _ _ => precondCause_of_exec⟩

/-! ### A fault stays until reset (60_exceptions.md R401, R411) -/

theorem ne_reset_of_nextMove {s : State} {st : HostStmt} (hr : NextMoveIsNotReset s)
    (hn : nextAgent s = some .host) (hst : hostStmt s = some st) : st ≠ .reset :=
  fun e => hr hn (hst.trans (congrArg some e))

/-- A port write to a faulted block changes neither FAULT nor CODE: even a HAZARD keeps the first code. -/
theorem writePort_keeps_fault {s : State} (hf : s.fault = true) (hc : s.code ≠ .none) (p : PortReg) (v : Word32) :
    (writePort p v s).fault = true ∧ (writePort p v s).code = s.code := by
  rcases writePort_cases p v s with he | ⟨-, he⟩ |
    ⟨-, ⟨-, -, he⟩ | ⟨x, he⟩ | ⟨x, he⟩ | ⟨x, he⟩ | ⟨x, he⟩ | ⟨k, -, he⟩⟩ <;> rw [he]
  case inr.inl => exact ⟨rfl, if_neg hc⟩
  all_goals exact ⟨hf, rfl⟩

theorem hostStmtStep_keeps_fault {s : State} (hf : s.fault = true) (hc : s.code ≠ .none) {st : HostStmt}
    (hne : st ≠ .reset) : (hostStmtStep st s).fault = true ∧ (hostStmtStep st s).code = s.code := by
  rcases hostStmtStep_cases st s with ⟨p, v, off, w, e, -, -, he⟩ | ⟨x, v, d, he⟩ | ⟨target, he⟩ | ⟨hr, -⟩
  · rw [he]
    exact writePort_keeps_fault hf hc p v
  · rw [he]
    exact ⟨hf, rfl⟩
  · rw [he]
    exact ⟨hf, rfl⟩
  · exact absurd hr hne

/-- Settles O25: neither a command, nor ILLEGAL, nor a host statement but reset changes a recorded fault. -/
theorem faultIsStickyUntilReset : Obligations.FaultIsStickyUntilReset := by
  intro s t h hr hf hc
  rcases step_cases h with ⟨-, i, -, he⟩ | ⟨-, rfl⟩ | ⟨hn, st, hst, rfl⟩ | ⟨-, rfl⟩
  · obtain ⟨hcode, hfault, -⟩ := faultingCommandWritesNothingElse i (dropTurn s) t he
    exact ⟨hfault hf, hcode hc⟩
  · exact ⟨rfl, if_neg hc⟩
  · exact hostStmtStep_keeps_fault (s := dropTurn s) hf hc (ne_reset_of_nextMove hr hn hst)
  · exact ⟨hf, rfl⟩

/-! ### A halted block (60_exceptions.md R410) -/

/-- `t` is `s` but for what the host may write in a halted block, A, B, C, LEN and BUF, and for the model's own
fields (60_exceptions.md R410). -/
def SameWhileHalted (s t : State) : Prop :=
  t = { s with a := t.a, b := t.b, c := t.c, len := t.len, buf := t.buf,
               draws := t.draws, hostProg := t.hostProg, hostAt := t.hostAt, hostVars := t.hostVars, turns := t.turns }

/-- A port write to a halted block: a CMD write is ignored (41_bitgen.md R130), and the registers the other writes
change are those R410 leaves to the host. -/
theorem writePort_sameWhileHalted {s : State} (hf : s.fault = true) (hb : s.busy = false) (p : PortReg)
    (v : Word32) : SameWhileHalted s (writePort p v s) := by
  rcases writePort_cases p v s with he | ⟨hbusy, -⟩ |
    ⟨-, ⟨-, hclear, -⟩ | ⟨x, he⟩ | ⟨x, he⟩ | ⟨x, he⟩ | ⟨x, he⟩ | ⟨k, -, he⟩⟩
  case inr.inl => exact absurd hbusy (by simp [hb])
  case inr.inr.inl => exact absurd hclear (by simp [hf])
  all_goals
    rw [he]
    rfl

theorem hostStmtStep_sameWhileHalted {s : State} (hf : s.fault = true) (hb : s.busy = false) {st : HostStmt}
    (hne : st ≠ .reset) : SameWhileHalted s (hostStmtStep st s) := by
  rcases hostStmtStep_cases st s with ⟨p, v, off, w, e, -, -, he⟩ | ⟨x, v, d, he⟩ | ⟨target, he⟩ | ⟨hr, -⟩
  · rw [he]
    exact congrArg hostNextStmt (writePort_sameWhileHalted hf hb p v)
  · rw [he]
    rfl
  · rw [he]
    rfl
  · exact absurd hr hne

/-- With no command in flight the engine does not move, so a step of a halted block is the host's or none. -/
theorem step_sameWhileHalted {s t : State} (h : step s = .next t) (hr : NextMoveIsNotReset s)
    (hf : s.fault = true) (hb : s.busy = false) : SameWhileHalted s t := by
  have hidle : nextAgent s ≠ some .engine := fun hn => absurd (busy_of_engine hn) (by simp [hb])
  rcases step_cases h with ⟨hn, -⟩ | ⟨hn, -⟩ | ⟨hn, st, hst, rfl⟩ | ⟨-, rfl⟩
  · exact absurd hn hidle
  · exact absurd hn hidle
  · exact hostStmtStep_sameWhileHalted (s := dropTurn s) hf hb (ne_reset_of_nextMove hr hn hst)
  · rfl

/-- Settles O26: what a halted block keeps holds all that R410 names. -/
theorem haltedUntilReset : Obligations.HaltedUntilReset := by
  intro s t h hr hf hb
  rw [step_sameWhileHalted h hr hf hb]
  exact ⟨hb, rfl, hf, rfl, rfl, rfl, ⟨rfl, rfl, rfl, rfl⟩, rfl, rfl, rfl, rfl⟩

end Sys2Proof.Machine
end

section
/-! PROOFS. Reset and accesses to a busy block (70_reset_and_hazards.md R500, R504, R507): what reset leaves, which
writes raise HAZARD while a command is in flight, and how long a command can stay in flight. -/

namespace Sys2Proof.Machine

/-! ### Reset (70_reset_and_hazards.md R500) -/

theorem hostStmtStep_reset (s : State) : hostStmtStep .reset s = hostNextStmt (resetBlock s) := rfl

/-- Only the block's own fields stand in STATUS, so it reads as it does after power-on. -/
theorem statusWord_resetBlock (s : State) : statusWord (resetBlock s) = 0 :=
  calc statusWord (resetBlock s)
    _ = statusWord State.reset := rfl
    _ = 0 := rfl

/-- Settles O36: reset leaves nothing of the block's state, and the host goes on. -/
theorem resetFromAnyState : Obligations.ResetFromAnyState := by
  intro s
  rw [hostStmtStep_reset]
  exact ⟨rfl, rfl, rfl, rfl, rfl, rfl, statusWord_resetBlock s, byte?_nil, rfl, rfl, rfl, rfl, rfl⟩

/-! ### A write while a command is in flight (70_reset_and_hazards.md R504) -/

/-- A fault already recorded is kept, the first code with it (60_exceptions.md R401). -/
theorem recordFault_of_recorded {s : State} (code : FaultCode) (hf : s.fault = true) (hc : s.code ≠ .none) :
    recordFault code s = s := by
  rw [recordFault_of_code code hc, ← hf]

/-- Where FAULT is recorded, R130's ignored CMD write and R504's hazard are the same: a second fault changes nothing. -/
theorem issue_of_busy_recorded {s : State} (v : Word32) (hb : s.busy = true) (hc : s.fault = true → s.code ≠ .none) :
    issue v s = recordFault .hazard s := by
  cases hf : s.fault with
  | true => rw [issue_of_fault v hf, recordFault_of_recorded .hazard hf (hc hf)]
  | false => exact issue_of_busy v hf hb

/-- Settles O28: the offsets of CMD, LEN, FLAGS, A, B and BUF, then those of STATUS, R and the reserved ones. -/
theorem writeWhileBusyIsHazard : Obligations.WriteWhileBusyIsHazard := by
  intro s off v hb hc haligned _
  refine ⟨fun h => ?_, fun h => ?_⟩
  · have hoff : off = 0x0000 ∨ off = 0x0008 ∨ off = 0x000C ∨ (0x0010 ≤ off ∧ off < 0x0020) ∨
        (0x0020 ≤ off ∧ off < 0x0030) ∨ (0x1000 ≤ off ∧ off < 0x19C4) := by omega
    rcases hoff with rfl | rfl | rfl | ha | hb' | hbuf
    · exact issue_of_busy_recorded v hb hc
    · exact writeWhenIdle_of_busy _ hb
    · exact writeWhenIdle_of_busy _ hb
    · rw [portReg_a ha]
      exact writeWhenIdle_of_busy _ hb
    · rw [portReg_b hb']
      exact writeWhenIdle_of_busy _ hb
    · rw [portReg_buf hbuf]
      exact writeWhenIdle_of_busy _ hb
  · have hoff : off = 0x0004 ∨ (0x0030 ≤ off ∧ off < 0x0040) ∨
        ((0x0040 ≤ off ∧ off < 0x1000) ∨ 0x19C4 ≤ off) := by omega
    rcases hoff with rfl | hr | hreserved
    · rfl
    · rw [portReg_r hr]
      rfl
    · rw [portReg_reserved hreserved]
      rfl

/-! ### A command in flight ends (70_reset_and_hazards.md R507) -/

/-- The engine's step ends the command in flight, whatever word stands in PENDING (41_bitgen.md R131). -/
theorem engineStep_ends (s : State) : ∃ t, engineStep s = .next t ∧ t.busy = false := by
  cases hd : decode s.pending with
  | command i =>
    rw [engineStep_of_command hd]
    exact exec_ends i s
  | illegal why => exact ⟨_, engineStep_of_illegal hd, rfl⟩

theorem writePort_turns (p : PortReg) (v : Word32) (s : State) : (writePort p v s).turns = s.turns := by
  rcases writePort_cases p v s with he | ⟨-, he⟩ |
    ⟨-, ⟨-, -, he⟩ | ⟨x, he⟩ | ⟨x, he⟩ | ⟨x, he⟩ | ⟨x, he⟩ | ⟨k, -, he⟩⟩ <;> rw [he] <;> rfl

/-- No host statement touches the turns, reset included (log 11). -/
theorem hostStmtStep_turns (st : HostStmt) (s : State) : (hostStmtStep st s).turns = s.turns := by
  rcases hostStmtStep_cases st s with ⟨p, v, off, w, e, -, -, he⟩ | ⟨x, v, d, he⟩ | ⟨target, he⟩ | ⟨-, he⟩ <;> rw [he]
  case inl => exact writePort_turns p v s
  all_goals rfl

theorem hostStep_next (s : State) : ∃ t, hostStep s = .next t ∧ t.turns = s.turns := by
  rw [hostStep]
  cases hostStmt s with
  | none => exact ⟨s, rfl, rfl⟩
  | some st => exact ⟨_, rfl, hostStmtStep_turns st s⟩

/-- While a command is in flight the host moves only where the next turn is its own, and uses it up; every other step
is the engine's and ends the command (60_exceptions.md R409; log 2). -/
theorem step_of_in_flight {s : State} (hb : s.busy = true) :
    ∃ t, step s = .next t ∧ (t.busy = false ∨ (t.busy = true ∧ s.turns = .host :: t.turns)) := by
  by_cases hhost : hostHasStep s ∧ s.turns.head? = some .host
  · have hn : nextAgent s = some .host := (nextAgent_of_busy hb).trans (if_pos hhost)
    obtain ⟨t, ht, hturns⟩ := hostStep_next (dropTurn s)
    have hturn : s.turns = .host :: t.turns := by
      obtain ⟨rest, hrest⟩ := List.head?_eq_some_iff.1 hhost.2
      rw [hturns, dropTurn_turns, hrest, List.tail_cons]
    exact ⟨t, (step_of_host hn).trans ht, (Bool.eq_false_or_eq_true t.busy).symm.imp id fun h => ⟨h, hturn⟩⟩
  · have hn : nextAgent s = some .engine := (nextAgent_of_busy hb).trans (if_neg hhost)
    obtain ⟨t, ht, hidle⟩ := engineStep_ends (dropTurn s)
    exact ⟨t, (step_of_engine hn).trans ht, .inl hidle⟩

/-- Settles O7, by induction on the turns: a step ends the command or uses up one turn of the host's. -/
theorem commandInFlightEnds : Obligations.CommandInFlightEnds := by
  intro s hb
  induction hturns : s.turns generalizing s with
  | nil =>
    obtain ⟨t, hstep, hidle | ⟨-, hturn⟩⟩ := step_of_in_flight hb
    · exact ⟨1, t, Nat.le_refl 1, run_succ_of_next 0 hstep, hidle⟩
    · exact absurd (hturn.symm.trans hturns) (List.cons_ne_nil _ _)
  | cons ag rest ih =>
    obtain ⟨t, hstep, hidle | ⟨hbusy, hturn⟩⟩ := step_of_in_flight hb
    · exact ⟨1, t, Nat.le_add_left 1 _, run_succ_of_next 0 hstep, hidle⟩
    · have hrest : t.turns = rest := (List.cons.inj (hturn.symm.trans hturns)).2
      obtain ⟨n, u, hn, hrun, hidle⟩ := ih t hbusy hrest
      exact ⟨n + 1, u, Nat.succ_le_succ hn, (run_succ_of_next n hstep).trans hrun, hidle⟩

end Sys2Proof.Machine
end
